-- ==== Sys2Proof/Word.lean ====
section
/-! DEFINITION. The word types of the core (spec/00_scope.md R8, R12, 45_test_handlers.md R244). -/

namespace Sys2Proof

/-- A byte of a backing buffer (R8). -/
abbrev Byte := BitVec 8

/-- An instruction word, an operand word, an I/O register (R8). -/
abbrev Word16 := BitVec 16

/-- A general register, the status register, a 32-bit stack word (R8). -/
abbrev Word32 := BitVec 32

/-- A bus address: a 32-bit BIT-address (R12). -/
abbrev Addr := BitVec 32

/-- The register field n of a TH word (30_encoding.md R136). -/
abbrev RegNo := BitVec 4

end Sys2Proof
end

