-- ==== Sys2Proof/Config.lean ====
section
/-! DEFINITION. The parameters of spec/00_scope.md R7 (Table P) as plain data, the programs a collaborator runs
inside the core, and the free values: constants without a body, so that nothing proved can rest on one of them. -/

namespace Sys2Proof

/-- `VARIANT` (R3). -/
inductive Variant where
  | tms34010
  | tms34020
  deriving DecidableEq, Repr, Inhabited

/-- `WORD32_ORDER` (20_memory.md R97, R100): which half of a 32-bit value lies at the lower address. -/
inductive Word32Order where
  | lowFirst
  | highFirst
  deriving DecidableEq, Repr, Inhabited

/-- `TIMER_POLICY` (60_exceptions.md R323). -/
inductive TimerPolicy where
  | sinceLastCheck
  | budget
  deriving DecidableEq, Repr, Inhabited

/-- `HANDLERS` (30_encoding.md R134): the spec's own test table TH, or a table of the platform's, whose handlers are
the free programs `Config.handlerProgram`. -/
inductive HandlerSet where
  | th
  | platform
  deriving DecidableEq, Repr, Inhabited

/-- A function parameter of Table P with a default: the default, or a function of the platform's, which is free. -/
inductive FnChoice where
  | standard
  | platform
  deriving DecidableEq, Repr, Inhabited

/-- The level of an external line (10_state.md R53). -/
inductive LineLevel where
  | clear
  | assert
  | hold
  deriving DecidableEq, Repr, Inhabited

/-- The interrupt sources (60_exceptions.md R272). -/
inductive IntSource where
  | nmi
  | hi
  | di
  | wv
  | int1
  | int2
  deriving DecidableEq, Repr, Inhabited

/-- The widths a bus handler is called with (20_memory.md R92). -/
inductive BusWidth where
  | w8
  | w16
  deriving DecidableEq, Repr, Inhabited

/-- A read or write function of a bus handler slot (20_memory.md R87): the open-bus function (R101), the I/O bank's
(R105), or function number `fn` of the platform's, which is free. -/
inductive BusFn where
  | openBus
  | ioBank
  | platform (fn : Nat)
  deriving DecidableEq, Repr, Inhabited

/-- An action a bus handler may return (20_memory.md R92). -/
inductive BusAction where
  | mapMemory (buf start stop dir : Nat)
  | mapHandler (id start stop dir : Nat)
  | setIrqLine (line : Int) (level : LineLevel)
  | stop
  deriving DecidableEq, Repr, Inhabited

/-- The arguments of the render callback (60_exceptions.md R330). -/
structure DisplayParams where
  dpyadr : Word16
  heblnk : Word16
  hsblnk : Word16
  htotal : Word16
  deriving DecidableEq, Repr, Inhabited

/-- One item of a save state (41_host_interface.md R215). The spec fixes the items and their order and gives no byte
layout (R213), so an item is a typed value (log 21). -/
inductive SaveItem where
  | word32 (v : Word32)
  | word16 (v : Word16)
  | byte (v : Byte)
  | int (v : Int)
  | nat (v : Nat)
  | bool (v : Bool)
  | level (v : LineLevel)
  deriving DecidableEq, Repr, Inhabited

/-- `IOREG_INDEX`: the bank index of each named I/O register (10_state.md R38, Table IO). -/
structure IoIndex where
  hesync : Fin 64
  heblnk : Fin 64
  hsblnk : Fin 64
  htotal : Fin 64
  vesync : Fin 64
  veblnk : Fin 64
  vsblnk : Fin 64
  vtotal : Fin 64
  dpyctl : Fin 64
  dpystrt : Fin 64
  dpyint : Fin 64
  control : Fin 64
  hstdata : Fin 64
  hstadrl : Fin 64
  hstadrh : Fin 64
  hstctll : Fin 64
  hstctlh : Fin 64
  intenb : Fin 64
  intpend : Fin 64
  convsp : Fin 64
  convdp : Fin 64
  psize : Fin 64
  pmask : Fin 64
  hcount : Fin 64
  vcount : Fin 64
  dpyadr : Fin 64
  refcnt : Fin 64
  deriving DecidableEq, Repr

/-- Table IO of 10_state.md R38 (the spec's default, from general knowledge; log 1). -/
def IoIndex.tableIO : IoIndex where
  hesync := 0
  heblnk := 1
  hsblnk := 2
  htotal := 3
  vesync := 4
  veblnk := 5
  vsblnk := 6
  vtotal := 7
  dpyctl := 8
  dpystrt := 9
  dpyint := 10
  control := 11
  hstdata := 12
  hstadrl := 13
  hstadrh := 14
  hstctll := 15
  hstctlh := 16
  intenb := 17
  intpend := 18
  convsp := 19
  convdp := 20
  psize := 21
  pmask := 22
  hcount := 27
  vcount := 28
  dpyadr := 29
  refcnt := 30

/-- Every index of the map, in Table IO's order. -/
def IoIndex.all (m : IoIndex) : List (Fin 64) :=
  [m.hesync, m.heblnk, m.hsblnk, m.htotal, m.vesync, m.veblnk, m.vsblnk, m.vtotal, m.dpyctl, m.dpystrt, m.dpyint,
    m.control, m.hstdata, m.hstadrl, m.hstadrh, m.hstctll, m.hstctlh, m.intenb, m.intpend, m.convsp, m.convdp,
    m.psize, m.pmask, m.hcount, m.vcount, m.dpyadr, m.refcnt]

/-- The parameters of Table P (R7) that are data, and the choice of each parameter that is a function. -/
structure Params where
  variant : Variant
  maxHandlers : Nat
  pageBytes : Nat
  pageCount : Nat
  fetchWidth : Nat
  dispatchShift : Fin 16
  handlers : HandlerSet
  intLatency : Nat
  stInit : Word32
  ieBit : Fin 32
  vecReset : Addr
  vecNmi : Addr
  vecHi : Addr
  vecDi : Addr
  vecWv : Addr
  vecInt1 : Addr
  vecInt2 : Addr
  bitInt1 : Fin 16
  bitInt2 : Fin 16
  bitHi : Fin 16
  bitDi : Fin 16
  bitWv : Fin 16
  hstNmiBit : Fin 16
  hstHltBit : Fin 16
  hstIntoutBit : Fin 16
  hstIntinBit : Fin 16
  dpyEnvBit : Fin 16
  ioIndex : IoIndex
  ioBase : Addr
  word32Order : Word32Order
  timerPolicy : TimerPolicy
  cpl : Nat
  hcountFn : FnChoice
  renderWin : FnChoice
  advanceWin : FnChoice
  shiftregBytes : Nat
  shiftHooksWired : Bool
  deriving DecidableEq, Repr

/-- `IOREG_COUNT` (R7, 10_state.md R37): 32, or 64 for the TMS34020. -/
def Params.ioregCount (p : Params) : Nat :=
  match p.variant with
  | .tms34010 => 32
  | .tms34020 => 64

/-- The pages cover the 2^29 bytes of the address space (20_memory.md R84), and hold whole 16-bit words, as many as the
two 32-bit pushes of an interrupt have (R96, 60_exceptions.md R280), so that no two of them lie at one place. -/
abbrev Params.pagesOk (p : Params) : Prop := p.pageBytes % 8 = 0 ∧ p.pageBytes * p.pageCount = 2 ^ 29

/-- The parameters the rules read consistently: `ST_INIT[IE_BIT] = 0` (10_state.md R36), the five source bits apart
(R40), the two HSTCTLH and the two HSTCTLL bits apart (R41, R42), the I/O indices apart and in the bank (R37, R38),
a handler slot 0 (20_memory.md R87), a positive `CPL` (60_exceptions.md R318), `DISPATCH_SHIFT` = 4 for TH
(30_encoding.md R136), and pages that cover the address space (20_memory.md R84; log 1). The index map of the TMS34020
is OPEN (R38). -/
abbrev Params.wf (p : Params) : Prop :=
  p.stInit.getLsbD p.ieBit.val = false
  ∧ [p.bitInt1, p.bitInt2, p.bitHi, p.bitDi, p.bitWv].Nodup
  ∧ p.hstNmiBit ≠ p.hstHltBit
  ∧ p.hstIntoutBit ≠ p.hstIntinBit
  ∧ p.ioIndex.all.Nodup
  ∧ (∀ i ∈ p.ioIndex.all, i.val < p.ioregCount)
  ∧ 0 < p.maxHandlers
  ∧ 0 < p.cpl
  ∧ (p.handlers = .th → p.dispatchShift = 4)
  ∧ p.pagesOk

/-- What a callback does (41_host_interface.md R208): a program of host calls, which sees what each call returns. Where a
call may itself run a callback (`intout`, `onFire`, `render`), the program says what that callback then does, so that a
nested callback is a part of the tree (log 7). Calls that are refused inside a run are in the tree too, and so are the
reads and writes of the backing buffers, which the platform owns (20_memory.md R86; log 22). -/
inductive CollabProg where
  | done
  | stop (k : CollabProg)
  | setIrqLine (line : Int) (level : LineLevel) (k : Bool → CollabProg)
  | readRegister (a : Addr) (k : Word16 → CollabProg)
  | writeRegister (a : Addr) (v : Word16) (intout k : CollabProg)
  | totalCycles (k : Nat → CollabProg)
  | timerArm (d : Int) (k : CollabProg)
  | checkTimer (e : Int) (onFire k : CollabProg)
  | timerSetCallback (cb : Option Nat) (k : CollabProg)
  | setIntoutCallback (cb : Option Nat) (k : CollabProg)
  | mapMemory (buf start stop dir : Nat) (k : Bool → CollabProg)
  | mapHandler (id start stop dir : Nat) (k : Bool → CollabProg)
  | setHandler (id : Nat) (rd wr : BusFn) (k : Bool → CollabProg)
  | generateScanline (line : Int) (hasCb : Bool) (onFire : CollabProg) (render : DisplayParams → CollabProg)
      (k : Nat → CollabProg)
  | reset (k : CollabProg)
  | serialize (k : List SaveItem → CollabProg)
  | deserialize (src : List SaveItem) (k : Bool → CollabProg)
  | readBuffer (buf o : Nat) (k : Byte → CollabProg)
  | writeBuffer (buf o : Nat) (v : Byte) (k : CollabProg)
  | run (budget : Int) (k : Int → CollabProg)
  deriving Inhabited

/-! The free values. An argument called `draw` is the number of the draw: State's counter `draws` is read and advanced
at each use, so that two uses are two unrelated values. -/

/-- `CPL` less one (R7, 60_exceptions.md R318): OPEN, a positive integer (log 2). -/
opaque Config.cplLessOne : Nat

/-- `SHIFTREG_BYTES` (R7, 10_state.md R55): OPEN (log 2). -/
opaque Config.shiftregBytes : Nat

/-- `rop_select` (60_exceptions.md R311): OPEN; `rop_sel` is of OPEN type and is held as a number (log 2). -/
opaque Config.ropSelect : Word16 → Nat

/-- `dpyadr_step` (60_exceptions.md R333): OPEN, a function of the I/O bank (log 2). -/
opaque Config.dpyadrStep : Vector Word16 64 → Word16

/-- `hcount_fn` where the platform gives its own (60_exceptions.md R318; log 2). -/
opaque Config.hcountFn : Nat → Vector Word16 64 → Word16

/-- `RENDER_WIN` where the platform gives its own (60_exceptions.md R331; log 2). -/
opaque Config.renderWin : Int → Vector Word16 64 → Bool

/-- `ADVANCE_WIN` where the platform gives its own (60_exceptions.md R331; log 2). -/
opaque Config.advanceWin : Int → Vector Word16 64 → Bool

/-- The value 0 to 5 drawn for `pixelshift` when PSIZE is illegal (10_state.md R46; log 9). -/
opaque Config.pixelshiftDraw : (draw : Nat) → Fin 6

/-- What read function `fn` of the platform's answers to `rd(A, n, T)` (20_memory.md R92; log 6). -/
opaque Config.busRead : (fn : Nat) → Addr → BusWidth → (t : Nat) → (draw : Nat) → Word16 × List BusAction

/-- What write function `fn` of the platform's answers to `wr(A, 16, v, T)` (20_memory.md R92; log 6). -/
opaque Config.busWrite : (fn : Nat) → Addr → Word16 → (t : Nat) → (draw : Nat) → List BusAction

/-- What timer callback `cb` does (41_host_interface.md R206, R208; log 7). -/
opaque Config.timerProgram : (cb : Nat) → (draw : Nat) → CollabProg

/-- What interrupt-output callback `cb` does when called with 1 (41_host_interface.md R207; log 7). -/
opaque Config.intoutProgram : (cb : Nat) → (draw : Nat) → CollabProg

/-- What render callback `cb` does (41_host_interface.md R209, 60_exceptions.md R330; log 7). -/
opaque Config.renderProgram : (cb : Nat) → (line : Int) → DisplayParams → (draw : Nat) → CollabProg

/-- What an exact sum below 0 leaves in `total_cycles`, a natural number (R11, 40_dispatch_loop.md R170; log 14). -/
opaque Config.totalBelowZero : Int → Nat

/-- How many iterations beyond its budget the model follows a run that a callback makes (40_dispatch_loop.md R178; log
8). -/
opaque Config.extraIterations : Nat

/-- The defaults of Table P (R7), with the OPEN parameters free and `HANDLERS` = TH (log 1, 2, 3). -/
def Params.default : Params where
  variant := .tms34010
  maxHandlers := 32
  pageBytes := 4096
  pageCount := 131072
  fetchWidth := 16
  dispatchShift := 4
  handlers := .th
  intLatency := 16
  stInit := 0x00000010#32
  ieBit := 21
  vecReset := 0xFFFFFFE0#32
  vecNmi := 0xFFFFFEE0#32
  vecHi := 0xFFFFFEC0#32
  vecDi := 0xFFFFFEA0#32
  vecWv := 0xFFFFFE80#32
  vecInt1 := 0xFFFFFFC0#32
  vecInt2 := 0xFFFFFFA0#32
  bitInt1 := 1
  bitInt2 := 2
  bitHi := 9
  bitDi := 10
  bitWv := 11
  hstNmiBit := 8
  hstHltBit := 15
  hstIntoutBit := 7
  hstIntinBit := 3
  dpyEnvBit := 15
  ioIndex := .tableIO
  ioBase := 0xC0000000#32
  word32Order := .lowFirst
  timerPolicy := .sinceLastCheck
  cpl := Config.cplLessOne + 1
  hcountFn := .standard
  renderWin := .standard
  advanceWin := .standard
  shiftregBytes := Config.shiftregBytes
  shiftHooksWired := false

end Sys2Proof
end

