-- ==== Sys2Proof/Syntax.lean ====
section
/-! DEFINITION. The instructions: one constructor per row of spec/opcode_table.json. -/

namespace Sys2Proof

/-- The generic dispatch of any opcode word (spec/40_dispatch_loop.md R169) and the 13 instructions of the test
handler set TH (45_test_handlers.md R230 to R242), with their operands as 30_encoding.md R137 and R138 give them.
`n` is the low nibble of the opcode word; where R139 says "n ignored" it is kept, so that an instruction stands for
its words, and no meaning reads it. -/
inductive Instr where
  /-- Any opcode word, by `HANDLERS(w >> DISPATCH_SHIFT)` (R169). -/
  | dispatch (w : Word16)
  /-- R230, TH-R. -/
  | nop (n : RegNo)
  /-- R231, TH-I32. -/
  | movi (n : RegNo) (imm : Word32)
  /-- R232, TH-I16. -/
  | addi (n : RegNo) (imm : Word16)
  /-- R233, TH-D16. -/
  | dsj (n : RegNo) (disp : Word16)
  /-- R234, TH-A32. -/
  | stl (n : RegNo) (addr : Addr)
  /-- R235, TH-A32. -/
  | ldl (n : RegNo) (addr : Addr)
  /-- R236, TH-A32. -/
  | stw (n : RegNo) (addr : Addr)
  /-- R237, TH-A32. -/
  | ldw (n : RegNo) (addr : Addr)
  /-- R238, TH-R. -/
  | eint (n : RegNo)
  /-- R239, TH-R. -/
  | dint (n : RegNo)
  /-- R240, TH-R. -/
  | reti (n : RegNo)
  /-- R241, TH-A32. -/
  | jmpa (n : RegNo) (addr : Addr)
  /-- R242, TH-R. -/
  | tstop (n : RegNo)
  deriving DecidableEq, Repr

end Sys2Proof
end

