-- ==== Sys2Proof/WellFormed.lean ====
section
/-! DEFINITION. Which instructions a handler table has. -/

namespace Sys2Proof

/-- Under TH a word of an assigned index is its own instruction, so the generic `dispatch` stands for the words of the
unassigned indices alone (30_encoding.md R139, R140). Under a platform's table every word is `dispatch` (R134). Every
operand field holds whatever its bits say, so there is no further check. -/
def Instr.wellFormed (hs : HandlerSet) (i : Instr) : Bool :=
  match hs, i with
  | .th, .dispatch w => decide (0x00D ≤ w.toNat / 16)
  | .th, .nop _ => true
  | .th, .movi _ _ => true
  | .th, .addi _ _ => true
  | .th, .dsj _ _ => true
  | .th, .stl _ _ => true
  | .th, .ldl _ _ => true
  | .th, .stw _ _ => true
  | .th, .ldw _ _ => true
  | .th, .eint _ => true
  | .th, .dint _ => true
  | .th, .reti _ => true
  | .th, .jmpa _ _ => true
  | .th, .tstop _ => true
  | .platform, .dispatch _ => true
  | .platform, .nop _ => false
  | .platform, .movi _ _ => false
  | .platform, .addi _ _ => false
  | .platform, .dsj _ _ => false
  | .platform, .stl _ _ => false
  | .platform, .ldl _ _ => false
  | .platform, .stw _ _ => false
  | .platform, .ldw _ _ => false
  | .platform, .eint _ => false
  | .platform, .dint _ => false
  | .platform, .reti _ => false
  | .platform, .jmpa _ _ => false
  | .platform, .tstop _ => false

end Sys2Proof
end

