-- ==== Sys2Proof/Decode.lean ====
section
/-! DEFINITION. The decoder of the instruction words (spec/30_encoding.md R130 to R140), total on any bytes, and the
encoder written from the same tables. -/

namespace Sys2Proof

/-- The handler index of a TH word, k = w[15:4] (30_encoding.md R136). -/
def thIndex (w : Word16) : Nat := w.toNat / 16

/-- The register field of a TH word, n = w[3:0] (R136). -/
def thReg (w : Word16) : RegNo := w.extractLsb' 0 4

/-- The number of 16-bit operand words that follow a TH opcode word: the formats of R137 by the opcode map of R139. -/
def thOperandWords (w : Word16) : Nat :=
  match thIndex w with
  | 0x001 => 2
  | 0x002 => 1
  | 0x003 => 1
  | 0x004 => 2
  | 0x005 => 2
  | 0x006 => 2
  | 0x007 => 2
  | 0x00B => 2
  | _ => 0

/-- The number of operand words the loop's decoder reads: those of TH, none under a platform's table, whose handlers
read their own (R131). -/
def operandWords (hs : HandlerSet) (w : Word16) : Nat :=
  match hs with
  | .th => thOperandWords w
  | .platform => 0

/-- A 32-bit value from its halves in address order (20_memory.md R97). -/
def joinHalves (ord : Word32Order) (first second : Word16) : Word32 :=
  match ord with
  | .lowFirst => second ++ first
  | .highFirst => first ++ second

/-- The half of a 32-bit value at the lower address (20_memory.md R97, R100). -/
def firstHalf (ord : Word32Order) (v : Word32) : Word16 :=
  match ord with
  | .lowFirst => v.extractLsb' 0 16
  | .highFirst => v.extractLsb' 16 16

/-- The half of a 32-bit value at the higher address (20_memory.md R97, R100). -/
def secondHalf (ord : Word32Order) (v : Word32) : Word16 :=
  match ord with
  | .lowFirst => v.extractLsb' 16 16
  | .highFirst => v.extractLsb' 0 16

/-- The instruction of an opcode word under TH, given the operand words that follow it (R139); an operand word the
format does not have is not looked at. A word of an unassigned index is the generic dispatch (R140). -/
def decodeTh (ord : Word32Order) (w first second : Word16) : Instr :=
  match thIndex w with
  | 0x000 => .nop (thReg w)
  | 0x001 => .movi (thReg w) (joinHalves ord first second)
  | 0x002 => .addi (thReg w) first
  | 0x003 => .dsj (thReg w) first
  | 0x004 => .stl (thReg w) (joinHalves ord first second)
  | 0x005 => .ldl (thReg w) (joinHalves ord first second)
  | 0x006 => .stw (thReg w) (joinHalves ord first second)
  | 0x007 => .ldw (thReg w) (joinHalves ord first second)
  | 0x008 => .eint (thReg w)
  | 0x009 => .dint (thReg w)
  | 0x00A => .reti (thReg w)
  | 0x00B => .jmpa (thReg w) (joinHalves ord first second)
  | 0x00C => .tstop (thReg w)
  | _ => .dispatch w

/-- The instruction of an opcode word: TH's, or the generic dispatch of a platform's table (R134). -/
def decodeWords (hs : HandlerSet) (ord : Word32Order) (w first second : Word16) : Instr :=
  match hs with
  | .th => decodeTh ord w first second
  | .platform => .dispatch w

/-- Why bytes are no instruction. No word is illegal to the loop (R135), so only a missing word is. -/
inductive DecodeRefusal where
  /-- Fewer than two bytes: there is no opcode word (R130). -/
  | noOpcodeWord
  /-- The operand words of opcode word `w` are not all there (R137). -/
  | missingOperand (w : Word16)
  deriving DecidableEq, Repr

/-- What the decoder answers: an instruction and the bytes after it, or a refusal by name. -/
inductive DecodeResult where
  | ok (i : Instr) (rest : List Byte)
  | refused (r : DecodeRefusal)
  deriving DecidableEq, Repr

/-- A 16-bit word in its byte order: the high byte first (20_memory.md R103). -/
def takeWord : List Byte → Option (Word16 × List Byte)
  | hi :: lo :: rest => some (hi ++ lo, rest)
  | _ => none

/-- The bytes of a word, the first at the lowest address (20_memory.md R103). -/
def wordBytes (w : Word16) : List Byte := [w.extractLsb' 8 8, w.extractLsb' 0 8]

/-- The decoder, on any bytes. -/
def decode (hs : HandlerSet) (ord : Word32Order) (bytes : List Byte) : DecodeResult :=
  match takeWord bytes with
  | none => .refused .noOpcodeWord
  | some (w, rest) =>
    match operandWords hs w with
    | 0 => .ok (decodeWords hs ord w 0 0) rest
    | 1 =>
      match takeWord rest with
      | none => .refused (.missingOperand w)
      | some (first, rest) => .ok (decodeWords hs ord w first 0) rest
    | _ =>
      match takeWord rest with
      | none => .refused (.missingOperand w)
      | some (first, rest) =>
        match takeWord rest with
        | none => .refused (.missingOperand w)
        | some (second, rest) => .ok (decodeWords hs ord w first second) rest

/-- The opcode word of TH index `k` and register field `n` (R136). -/
def thWord (k : BitVec 12) (n : RegNo) : Word16 := k ++ n

/-- The words of an instruction, at increasing addresses (R137, R139). -/
def encode (ord : Word32Order) (i : Instr) : List Word16 :=
  match i with
  | .dispatch w => [w]
  | .nop n => [thWord 0x000 n]
  | .movi n imm => [thWord 0x001 n, firstHalf ord imm, secondHalf ord imm]
  | .addi n imm => [thWord 0x002 n, imm]
  | .dsj n disp => [thWord 0x003 n, disp]
  | .stl n addr => [thWord 0x004 n, firstHalf ord addr, secondHalf ord addr]
  | .ldl n addr => [thWord 0x005 n, firstHalf ord addr, secondHalf ord addr]
  | .stw n addr => [thWord 0x006 n, firstHalf ord addr, secondHalf ord addr]
  | .ldw n addr => [thWord 0x007 n, firstHalf ord addr, secondHalf ord addr]
  | .eint n => [thWord 0x008 n]
  | .dint n => [thWord 0x009 n]
  | .reti n => [thWord 0x00A n]
  | .jmpa n addr => [thWord 0x00B n, firstHalf ord addr, secondHalf ord addr]
  | .tstop n => [thWord 0x00C n]

/-- The bytes of words laid out as the hardware stores them. -/
def layWords : List Word16 → List Byte
  | [] => []
  | w :: ws => wordBytes w ++ layWords ws

/-- The bytes of an instruction. -/
def encodeBytes (ord : Word32Order) (i : Instr) : List Byte := layWords (encode ord i)

/-- The number of 16-bit words of an instruction (R137). -/
def instrWords (i : Instr) : Nat :=
  match i with
  | .dispatch _ => 1
  | .nop _ => 1
  | .movi _ _ => 3
  | .addi _ _ => 2
  | .dsj _ _ => 2
  | .stl _ _ => 3
  | .ldl _ _ => 3
  | .stw _ _ => 3
  | .ldw _ _ => 3
  | .eint _ => 1
  | .dint _ => 1
  | .reti _ => 1
  | .jmpa _ _ => 3
  | .tstop _ => 1

/-- The three words of an instruction whose bits are `w`, bit 0 the least significant bit of the first word, every bit
from `nbits` up taken as 0 (the longest instruction has three words). -/
def tableWords (nbits w : Nat) : List Word16 :=
  let v := w % 2 ^ nbits
  [BitVec.ofNat 16 v, BitVec.ofNat 16 (v / 2 ^ 16), BitVec.ofNat 16 (v / 2 ^ 32)]

/-- The instruction the decoder reads under the default parameters (TH, low half first) from an instruction whose bits
are `w`, laid out as `tableWords` says. -/
def decodeTableWord (nbits w : Nat) : Option Instr :=
  match decode .th .lowFirst (layWords (tableWords nbits w)) with
  | .ok i _ => some i
  | .refused _ => none

end Sys2Proof
end

