-- ==== Sys2Proof/Machine/State.lean ====
section
/-! DEFINITION. The state of one core instance as plain data (spec/10_state.md R59, Table S), the reasons a step can
stop, and the state after reset (70_reset_and_hazards.md R360, R363). -/

namespace Sys2Proof.Machine

/-- The events of the event history (41_host_interface.md R212). -/
inductive Event where
  | misalignedFetch (pc : Addr)
  | timerRearm (old new : Int)
  | handlerRead (id : Nat) (a : Addr) (n : BusWidth) (v : Word16)
  | handlerWrite (id : Nat) (a : Addr) (v : Word16)
  | interruptTaken (source : IntSource) (vector target : Addr)
  | timerFired
  | render (line : Int) (params : DisplayParams)
  | intOut
  deriving DecidableEq, Repr

/-- An entry of a page table (20_memory.md R82). -/
inductive PageEntry where
  | memory (buf off : Nat)
  | handler (id : Nat)
  deriving DecidableEq, Repr

/-- A backing buffer (20_memory.md R86): its length in bytes, and the bytes that are not zero, at rising offsets. A
byte of the buffer that is not listed reads 0 (log 10). -/
structure Buffer where
  len : Nat
  cells : List Host.Cell
  deriving DecidableEq, Repr

/-- The memory map and the buffers (10_state.md R56). A page that is not listed in a table has the entry `Handler(0)`
(20_memory.md R85); the listed pages rise and none has that entry. -/
structure Memory where
  rmap : List (Nat × PageEntry)
  wmap : List (Nat × PageEntry)
  bufs : List Buffer
  deriving DecidableEq, Repr

/-- A slot of the bus handler table (20_memory.md R87). -/
structure BusFns where
  rd : BusFn
  wr : BusFn
  deriving DecidableEq, Repr

/-- The operations the host calls on an instance (41_host_interface.md R200), and its writes to the buffers it owns. -/
inductive HostOp where
  | reset
  | run (budget : Int)
  | stop
  | setIrqLine (line : Int) (level : LineLevel)
  | generateScanline (line : Int) (renderCb : Option Nat)
  | totalCycles
  | mapMemory (buf start stop dir : Nat)
  | mapHandler (id start stop dir : Nat)
  | setHandler (id : Nat) (rd wr : BusFn)
  | timerSetCallback (cb : Option Nat)
  | timerArm (d : Int)
  | checkTimer (e : Int)
  | setIntoutCallback (cb : Option Nat)
  | writeRegister (a : Addr) (v : Word16)
  | readRegister (a : Addr)
  | serialize
  | deserialize (src : List SaveItem)
  /-- Not a call of R200: the platform, or another instance that shares the buffer, stores a byte in a backing buffer
  between runs (20_memory.md R86, 60_exceptions.md R346; log 22). -/
  | writeBuffer (buf o : Nat) (v : Byte)
  deriving DecidableEq, Repr

/-- What a host call returns (41_host_interface.md R200). -/
inductive HostResult where
  | unit
  | ok
  | error
  | consumed (n : Int)
  | nextLine (n : Nat)
  | total (n : Nat)
  | value (v : Word16)
  | saved (items : List SaveItem)
  deriving DecidableEq, Repr

/-- The state. The fields up to `events` are Table S of 10_state.md R59 with the configuration of R57; the last three
are the model's own. -/
structure State where
  /-- The parameters (00_scope.md R7): configuration, written by no step. -/
  cfg : Params
  /-- The backing array of the general registers (10_state.md R30). -/
  x : Vector Word32 31
  /-- R33. -/
  pc : Addr
  /-- R34. -/
  st : Word32
  /-- The I/O bank (R37); the registers from `ioregCount` up do not exist and are never reached (log 20). -/
  io : Vector Word16 64
  /-- R46. -/
  pixelshift : Fin 6
  /-- R46. -/
  ropSel : Nat
  /-- R47. -/
  icounter : Int
  /-- R47. -/
  cyclesStart : Int
  /-- R47; a natural number (00_scope.md R11). -/
  totalCycles : Nat
  /-- R48. -/
  inRun : Bool
  /-- R50. -/
  timerActive : Bool
  /-- R50. -/
  timerCyc : Int
  /-- R50; a natural number (00_scope.md R11). -/
  timerStamp : Nat
  /-- R52. -/
  stopFlag : Bool
  /-- `line_state[0]`, INT1 (R53). -/
  line0 : LineLevel
  /-- `line_state[1]`, INT2 (R53). -/
  line1 : LineLevel
  /-- R55. -/
  shiftreg : List Byte
  /-- R56. -/
  mem : Memory
  /-- The bus handler table (20_memory.md R87). -/
  ht : List BusFns
  /-- R50, R57. -/
  timerCb : Option Nat
  /-- R57, 41_host_interface.md R207. -/
  intoutCb : Option Nat
  /-- R58. -/
  events : List Event
  /-- The model's own: how many free values have been drawn (log 9). -/
  draws : Nat
  /-- The model's own: the host calls not yet made, oldest first (log 13). -/
  inbox : List HostOp
  /-- The model's own: what the completed host calls returned, oldest first (log 13). -/
  results : List HostResult
  deriving DecidableEq, Repr

/-- The faults (60_exceptions.md R270), each with the faulted state, which is final (00_scope.md R15): what the step did
before the fault, its events included, is there (R321, vector T5). -/
inductive Fault where
  /-- The timer fires with no callback (R321), or an opcode handler invokes a shift-register hook that is not wired
  (41_host_interface.md R210). Safe: the spec's own fault. -/
  | unwiredPeripheral (s : State)
  /-- A fault reason of a platform's handler table (R270, 40_dispatch_loop.md R168). Safe: the spec's own. -/
  | handlerFault (reason : Nat) (s : State)
  deriving DecidableEq, Repr

/-- The refusals (60_exceptions.md R270), each recorded for the whole state like a fault (00_scope.md R15), which it
carries. -/
inductive Refusal where
  /-- An instruction with no meaning yet, by its mnemonic; raised by `exec` alone. Safe. -/
  | notModelled (mnemonic : String)
  /-- `run` inside a run (40_dispatch_loop.md R176). Safe: the spec's own refusal. -/
  | reentrantRun (s : State)
  /-- `reset` inside a run (70_reset_and_hazards.md R360). Safe: the spec's own. -/
  | reentrantReset (s : State)
  /-- `serialize` or `deserialize` inside a run (41_host_interface.md R215, R216). Safe: the spec's own. -/
  | serializeInRun (s : State)
  /-- `generate_scanline` with a negative line (60_exceptions.md R327). Safe: the spec's own. -/
  | negativeLine (s : State)
  /-- A TH word of an unassigned index (45_test_handlers.md R243). Safe: the spec's own. -/
  | unassignedTestOpcode (w : Word16) (s : State)
  /-- A refusal reason of a platform's handler table (R270, 40_dispatch_loop.md R168). Safe: the spec's own. -/
  | handlerRefusal (reason : Nat) (s : State)
  /-- A run that a callback makes between runs has not ended within the iterations the model follows it for
  (40_dispatch_loop.md R178). Safe: the model stops where the core goes on or hangs (log 8). -/
  | callbackRunUnfinished (s : State)
  deriving DecidableEq, Repr

/-- The machine right after reset: `init` with the default parameters and no platform, then `reset` (R59,
70_reset_and_hazards.md R360, R363; log 11). Nothing is mapped, so the reset vector reads all ones from the open bus,
in the two handler calls of the event history. -/
def State.reset : State where
  cfg := .default
  x := Vector.replicate 31 0#32
  pc := 0xFFFFFFFF#32
  st := 0x00000010#32
  io := Vector.replicate 64 0#16
  pixelshift := Config.pixelshiftDraw 0
  ropSel := Config.ropSelect 0#16
  icounter := 0
  cyclesStart := 0
  totalCycles := 0
  inRun := false
  timerActive := false
  timerCyc := 0
  timerStamp := 0
  stopFlag := false
  line0 := .clear
  line1 := .clear
  shiftreg := List.replicate Config.shiftregBytes 0#8
  mem := { rmap := [], wmap := [], bufs := [] }
  ht := List.replicate 32 { rd := .openBus, wr := .openBus }
  timerCb := none
  intoutCb := none
  events := [.handlerRead 0 0xFFFFFFE0#32 .w16 0xFFFF#16, .handlerRead 0 0xFFFFFFF0#32 .w16 0xFFFF#16]
  draws := 1
  inbox := []
  results := []

end Sys2Proof.Machine
end

