-- ==== Sys2Proof/Machine/Bits.lean ====
section
/-! DEFINITION. Sequencing of outcomes, single bits, and the parts of a bus address. -/

namespace Sys2Proof.Machine

/-- An outcome that carries a value (spec/00_scope.md R15). -/
abbrev Result (α : Type) := Host.Outcome α Fault Refusal

/-- Sequencing (R16): a fault or a refusal ends the sequence. -/
def andThen {α β : Type} (o : Result α) (f : α → Result β) : Result β :=
  match o with
  | .next a => f a
  | .fault r => .fault r
  | .refused r => .refused r

/-- `v` with bit `i` at `b` (R9). -/
def setBit16 (v : Word16) (i : Fin 16) (b : Bool) : Word16 :=
  if b then v ||| (1#16 <<< i.val) else v &&& ~~~(1#16 <<< i.val)

/-- The word with bit `i` alone (R10). -/
def bitMask16 (i : Fin 16) : Word16 := 1#16 <<< i.val

/-- `A' = A & 0xFFFFFFF0` (20_memory.md R94). -/
def alignDown (a : Addr) : Addr := a &&& 0xFFFFFFF0#32

/-- `BA(A) = A >> 3` (00_scope.md R12). -/
def byteAddr (a : Addr) : Nat := a.toNat / 8

/-- `page(A) = (BA(A) >> 12) & (PAGE_COUNT - 1)` (20_memory.md R84), with a page of `PAGE_BYTES` (00_scope.md R7). -/
def page (p : Params) (a : Addr) : Nat := byteAddr a / p.pageBytes % p.pageCount

/-- The offset in the page, `BA(A) & 0xFFF` (R84). -/
def pageOffset (p : Params) (a : Addr) : Nat := byteAddr a % p.pageBytes

end Sys2Proof.Machine
end

