-- ==== Sys2Proof/Machine/Router.lean ====
section
/-! DEFINITION. The memory address router's data: sparse tables in canonical form, the page tables, the backing
buffers and the map operations (spec/20_memory.md R82 to R90, R102, R103). -/

namespace Sys2Proof.Machine

/-- The value at key `a` of a sparse table; a key that is not listed has the value `d`. -/
def sparseGet {α : Type} (d : α) : List (Nat × α) → Nat → α
  | [], _ => d
  | (k, v) :: rest, a => if a = k then v else sparseGet d rest a

/-- The table with `v` at key `a`, in canonical form: storing `d` takes the entry out. -/
def sparseSet {α : Type} [DecidableEq α] (d : α) : List (Nat × α) → Nat → α → List (Nat × α)
  | [], a, v => if v = d then [] else [(a, v)]
  | (k, w) :: rest, a, v =>
    if a < k then (if v = d then (k, w) :: rest else (a, v) :: (k, w) :: rest)
    else if a = k then (if v = d then rest else (a, v) :: rest)
    else (k, w) :: sparseSet d rest a v

/-- The canonical form: the keys rise strictly and no entry is what an unlisted key reads as. -/
abbrev sparseWf {α : Type} (d : α) (l : List (Nat × α)) : Prop :=
  l.Pairwise (fun p q => p.1 < q.1) ∧ ∀ p ∈ l, p.2 ≠ d

/-- The entry of a page that no map operation has changed (R85). -/
def unmapped : PageEntry := .handler 0

/-- What a byte outside its buffer reads as: the open bus (R101). The map operations make no such entry (log 10). -/
def outsideByte : Byte := 0xFF#8

/-- What a byte of a buffer reads as when it is not listed (log 10). -/
def unlistedByte : Byte := 0#8

/-- Byte `o` of buffer `buf` (R86). -/
def Memory.byteAt (m : Memory) (buf o : Nat) : Byte :=
  match m.bufs[buf]? with
  | none => outsideByte
  | some b => if o < b.len then sparseGet unlistedByte b.cells o else outsideByte

/-- The memory with `v` at byte `o` of buffer `buf` (R86). -/
def Memory.setByte (m : Memory) (buf o : Nat) (v : Byte) : Memory :=
  match m.bufs[buf]? with
  | none => m
  | some b =>
    if o < b.len then { m with bufs := m.bufs.set buf { b with cells := sparseSet unlistedByte b.cells o v } } else m

/-- The 16-bit word at byte `o` of buffer `buf`: the high byte first (R96, R103). -/
def Memory.wordAt (m : Memory) (buf o : Nat) : Word16 := m.byteAt buf o ++ m.byteAt buf (o + 1)

/-- The memory with the 16-bit `v` at byte `o` of buffer `buf` (R98, R103). -/
def Memory.setWord (m : Memory) (buf o : Nat) (v : Word16) : Memory :=
  (m.setByte buf o (v.extractLsb' 8 8)).setByte buf (o + 1) (v.extractLsb' 0 8)

/-- `RMAP[page(A)]` (R95). -/
def Memory.readEntry (m : Memory) (p : Params) (a : Addr) : PageEntry := sparseGet unmapped m.rmap (page p a)

/-- `WMAP[page(A)]` (R98). -/
def Memory.writeEntry (m : Memory) (p : Params) (a : Addr) : PageEntry := sparseGet unmapped m.wmap (page p a)

/-- `length(buf)`; a buffer that does not exist has no bytes (R88). -/
def Memory.bufLen (m : Memory) (buf : Nat) : Nat :=
  match m.bufs[buf]? with
  | none => 0
  | some b => b.len

/-- A table with `entry p` at each of the `n` pages from `p` up. -/
def setPages (entry : Nat → PageEntry) : Nat → Nat → List (Nat × PageEntry) → List (Nat × PageEntry)
  | _, 0, t => t
  | p, n + 1, t => setPages entry (p + 1) n (sparseSet unmapped t p (entry p))

/-- Installs `entry` on the pages of the byte range in the directions of `dir`, bit 0 read and bit 1 write (R88 to
R90). -/
def Memory.mapRange (m : Memory) (p : Params) (entry : Nat → PageEntry) (start stop dir : Nat) : Memory :=
  let first := start / p.pageBytes
  let n := stop / p.pageBytes + 1 - first
  { m with
    rmap := if dir.testBit 0 then setPages entry first n m.rmap else m.rmap
    wmap := if dir.testBit 1 then setPages entry first n m.wmap else m.wmap }

/-- The range checks the two map operations share: page-aligned bounds, in order, inside the address space, and a
direction mask of bits 0 and 1 (R88, R90). -/
def rangeOk (p : Params) (start stop dir : Nat) : Bool :=
  start % p.pageBytes == 0 && stop % p.pageBytes == p.pageBytes - 1 && decide (start ≤ stop) && decide (stop < 2 ^ 29)
    && decide (dir < 4)

/-- `map_memory(buf, start, end, dir)` (R88): false is the configuration error, which changes nothing. -/
def Memory.mapMemory (m : Memory) (p : Params) (buf start stop dir : Nat) : Bool × Memory :=
  if rangeOk p start stop dir && decide (stop - start + 1 ≤ m.bufLen buf) then
    (true, m.mapRange p (fun k => .memory buf (k * p.pageBytes - start)) start stop dir)
  else (false, m)

/-- `map_handler(id, start, end, dir)` (R90). -/
def Memory.mapHandler (m : Memory) (p : Params) (id start stop dir : Nat) : Bool × Memory :=
  if rangeOk p start stop dir && decide (id < p.maxHandlers) then
    (true, m.mapRange p (fun _ => .handler id) start stop dir)
  else (false, m)

/-- A page entry that reaches a byte for every offset in its page: a direct entry names a whole block of a page's size
inside its buffer (R88), a handler entry names a slot (R90). -/
def Memory.entryOk (m : Memory) (p : Params) (e : PageEntry) : Bool :=
  match e with
  | .memory buf off => decide (off % p.pageBytes = 0 ∧ off + p.pageBytes ≤ m.bufLen buf)
  | .handler id => decide (id < p.maxHandlers)

/-- The canonical form of a page table, whose entries reach. -/
abbrev Memory.tableWf (m : Memory) (p : Params) (t : List (Nat × PageEntry)) : Prop :=
  sparseWf unmapped t ∧ ∀ q ∈ t, q.1 < p.pageCount ∧ m.entryOk p q.2 = true

/-- The canonical form of a buffer: its listed bytes lie in it. -/
abbrev Buffer.wf (b : Buffer) : Prop := sparseWf unlistedByte b.cells ∧ ∀ p ∈ b.cells, p.1 < b.len

/-- The canonical form of the memory. -/
abbrev Memory.wf (m : Memory) (p : Params) : Prop :=
  m.tableWf p m.rmap ∧ m.tableWf p m.wmap ∧ ∀ b ∈ m.bufs, b.wf

end Sys2Proof.Machine
end

