-- ==== Sys2Proof/Machine/Regs.lean ====
section
/-! DEFINITION. The named reads and updates of State that every meaning goes through: the two views of the register
file, the I/O bank's storage, the counters and the event history (spec/10_state.md). -/

namespace Sys2Proof.Machine

/-- Slot i of the backing array (R30). -/
def State.xAt (s : State) (i : Fin 31) : Word32 := s.x[i.val]'i.isLt

/-- `x[i] <- v` (R30). -/
def State.setX (s : State) (i : Fin 31) (v : Word32) : State := { s with x := s.x.set i.val v i.isLt }

/-- The slot of A(n): `x[n]` (R31). -/
def slotA (n : RegNo) : Fin 31 := ⟨n.toNat, by have := n.isLt; omega⟩

/-- The slot of B(n): `x[30 - n]` (R31). -/
def slotB (n : RegNo) : Fin 31 := ⟨30 - n.toNat, by omega⟩

/-- The slot of SP: A(15) and B(15) (R31). -/
def slotSp : Fin 31 := 15

/-- A(n) (R31). -/
def State.a (s : State) (n : RegNo) : Word32 := s.xAt (slotA n)

/-- `A(n) <- v`. -/
def State.setA (s : State) (n : RegNo) (v : Word32) : State := s.setX (slotA n) v

/-- B(n) (R31). -/
def State.b (s : State) (n : RegNo) : Word32 := s.xAt (slotB n)

/-- `B(n) <- v`. -/
def State.setB (s : State) (n : RegNo) (v : Word32) : State := s.setX (slotB n) v

/-- SP (R31). -/
def State.sp (s : State) : Word32 := s.xAt slotSp

/-- `SP <- v`. -/
def State.setSp (s : State) (v : Word32) : State := s.setX slotSp v

/-- `pc <- v` (R33). -/
def State.setPc (s : State) (v : Addr) : State := { s with pc := v }

/-- `st <- v` (R35). -/
def State.setSt (s : State) (v : Word32) : State := { s with st := v }

/-- The stored value of bank index i (R37). -/
def State.ioAt (s : State) (i : Fin 64) : Word16 := s.io[i.val]'i.isLt

/-- `io[i] <- v`, the plain store (R37). -/
def State.setIo (s : State) (i : Fin 64) (v : Word16) : State := { s with io := s.io.set i.val v i.isLt }

/-- Charges `c` cycles: `icounter <- icounter - c` (R47). -/
def State.charge (s : State) (c : Nat) : State := { s with icounter := s.icounter - c }

/-- `icounter <- v`. -/
def State.setIcounter (s : State) (v : Int) : State := { s with icounter := v }

/-- Appends an event to the history (R58). -/
def State.emit (s : State) (e : Event) : State := { s with events := s.events ++ [e] }

/-- Counts one draw of a free value. -/
def State.tick (s : State) : State := { s with draws := s.draws + 1 }

/-- The state with another memory. -/
def State.setMem (s : State) (m : Memory) : State := { s with mem := m }

/-- `pixelshift <- v` (R46). -/
def State.setPixelshift (s : State) (v : Fin 6) : State := { s with pixelshift := v }

/-- `rop_sel <- v` (R46). -/
def State.setRopSel (s : State) (v : Nat) : State := { s with ropSel := v }

/-- `stop_flag <- true`: the operation `stop()` (40_dispatch_loop.md R172). -/
def State.stop (s : State) : State := { s with stopFlag := true }

/-- `line_state[0] <- v` (R53). -/
def State.setLine0 (s : State) (v : LineLevel) : State := { s with line0 := v }

/-- `line_state[1] <- v` (R53). -/
def State.setLine1 (s : State) (v : LineLevel) : State := { s with line1 := v }

/-- Timer state: `timer_active` and `timer_cyc` (R50). -/
def State.setTimer (s : State) (active : Bool) (cyc : Int) : State := { s with timerActive := active, timerCyc := cyc }

/-- `timer_stamp <- v` (R50). -/
def State.setStamp (s : State) (v : Nat) : State := { s with timerStamp := v }

/-- The state with byte `o` of buffer `buf` at `v` (20_memory.md R86). -/
def State.setBuffer (s : State) (buf o : Nat) (v : Byte) : State := s.setMem (s.mem.setByte buf o v)

/-- The natural number a total is held as (00_scope.md R11). A sum below 0, which no rule gives a total, is a free value
(log 14). -/
def asTotal (n : Int) : Nat := if 0 ≤ n then n.toNat else Config.totalBelowZero n

/-- `timer_set_callback(cb)` (41_host_interface.md R206). -/
def State.setTimerCb (s : State) (cb : Option Nat) : State := { s with timerCb := cb }

/-- `set_intout_callback(cb)` (41_host_interface.md R207). -/
def State.setIntoutCb (s : State) (cb : Option Nat) : State := { s with intoutCb := cb }

/-- `total_cycles_reported` (R49). -/
def State.reported (s : State) : Nat :=
  if s.inRun then asTotal (s.totalCycles + (s.cyclesStart - s.icounter)) else s.totalCycles

end Sys2Proof.Machine
end

