-- ==== Sys2Proof/Machine/Flags.lean ====
section
/-! DEFINITION. The fields of the status register (spec/10_state.md R34, Table ST). No rule of the core computes N, C,
Z, V or a field size (R35): TH writes IE alone (45_test_handlers.md R245), so these are the only flag rules. -/

namespace Sys2Proof.Machine

/-- The interrupt-enable flag, `st[IE_BIT]` (R36). -/
def State.ie (s : State) : Bool := s.st.getLsbD s.cfg.ieBit.val

/-- `st` with IE at `b`, every other bit kept (45_test_handlers.md R238, R239, R245). -/
def stWithIe (p : Params) (st : Word32) (b : Bool) : Word32 :=
  if b then st ||| (1#32 <<< p.ieBit.val) else st &&& ~~~(1#32 <<< p.ieBit.val)

/-- N (Table ST). -/
def stN (st : Word32) : Bool := st.getLsbD 31

/-- C (Table ST). -/
def stC (st : Word32) : Bool := st.getLsbD 30

/-- Z (Table ST). -/
def stZ (st : Word32) : Bool := st.getLsbD 29

/-- V (Table ST). -/
def stV (st : Word32) : Bool := st.getLsbD 28

/-- FE1 (Table ST). -/
def stFe1 (st : Word32) : Bool := st.getLsbD 11

/-- FS1 (Table ST). -/
def stFs1 (st : Word32) : BitVec 5 := st.extractLsb' 6 5

/-- FE0 (Table ST). -/
def stFe0 (st : Word32) : Bool := st.getLsbD 5

/-- FS0 (Table ST). -/
def stFs0 (st : Word32) : BitVec 5 := st.extractLsb' 0 5

end Sys2Proof.Machine
end

