-- ==== Sys2Proof/Machine/IoBank.lean ====
section
/-! DEFINITION. The I/O register bank (spec/60_exceptions.md R310 to R319), its caches (10_state.md R46) and the
external interrupt lines (41_host_interface.md R203). -/

namespace Sys2Proof.Machine

/-- The bank index of a bus address, `(A >> 4) & (IOREG_COUNT - 1)` (10_state.md R37). -/
def bankIndex (p : Params) (a : Addr) : Fin 64 := Fin.ofNat 64 ((a.toNat / 16) % p.ioregCount)

/-- log2 of a legal PSIZE (10_state.md R46). -/
def pixelshiftOf (psize : Word16) : Option (Fin 6) :=
  match psize.toNat with
  | 1 => some 0
  | 2 => some 1
  | 4 => some 2
  | 8 => some 3
  | 16 => some 4
  | 32 => some 5
  | _ => none

/-- The cache of PSIZE after a write (R312): log2 of a legal value, else a draw from 0 to 5 (log 9). -/
def State.recomputePixelshift (s : State) : State :=
  match pixelshiftOf (s.ioAt s.cfg.ioIndex.psize) with
  | some k => s.setPixelshift k
  | none => (s.setPixelshift (Config.pixelshiftDraw s.draws)).tick

/-- The cache of CONTROL after a write (R311). -/
def State.recomputeRopSel (s : State) : State := s.setRopSel (Config.ropSelect (s.ioAt s.cfg.ioIndex.control))

/-- REFCNT, `(T div 16) mod 2^16` (R317). -/
def refcnt (t : Nat) : Word16 := BitVec.ofNat 16 (t / 16)

/-- HCOUNT (R318): `(((T mod CPL) × (HTOTAL + 1)) div CPL) mod 2^16`, or the platform's function. -/
def hcount (p : Params) (t : Nat) (io : Vector Word16 64) : Word16 :=
  match p.hcountFn with
  | .standard =>
    BitVec.ofNat 16 ((t % p.cpl) * ((io[p.ioIndex.htotal.val]'p.ioIndex.htotal.isLt).toNat + 1) / p.cpl)
  | .platform => Config.hcountFn t io

/-- `read_register(A)` (R316): computed for HCOUNT and REFCNT, else the raw stored value. -/
def State.readRegister (s : State) (a : Addr) : Word16 :=
  let i := bankIndex s.cfg a
  if i = s.cfg.ioIndex.hcount then hcount s.cfg s.reported s.io
  else if i = s.cfg.ioIndex.refcnt then refcnt s.reported
  else s.ioAt i

/-- The INTPEND bits a write can clear (R315). -/
def clearable (p : Params) : Word16 := bitMask16 p.bitHi ||| bitMask16 p.bitDi ||| bitMask16 p.bitWv

/-- INTPEND after a write of `v` (R315): a written 0 clears HI, DI or WV, every other bit keeps its old value. -/
def intpendAfterWrite (p : Params) (old v : Word16) : Word16 := old &&& (~~~(clearable p) ||| v)

/-- `SRC_MASK`, the five source bits (10_state.md R54). -/
def srcMask (p : Params) : Word16 := clearable p ||| bitMask16 p.bitInt1 ||| bitMask16 p.bitInt2

/-- The pending bit `b` of INTPEND set or cleared by the core itself (R275, R282, R329, 41_host_interface.md R203). -/
def State.setPending (s : State) (bit : Fin 16) (b : Bool) : State :=
  s.setIo s.cfg.ioIndex.intpend (setBit16 (s.ioAt s.cfg.ioIndex.intpend) bit b)

/-- The HSTCTLH write (R313): a written halt bit inside a run zeroes the budget. -/
def State.hstctlhWritten (s : State) (v : Word16) : State :=
  if v.getLsbD s.cfg.hstHltBit.val && s.inRun then s.setIcounter 0 else s

/-- Whether bit `bit` rises from `old` to `new` (R314). -/
def rises (old new : Word16) (bit : Fin 16) : Bool := !old.getLsbD bit.val && new.getLsbD bit.val

/-- The interrupt-in part of the HSTCTLL write (R314): a rising INTIN makes the host interrupt pending. -/
def State.intinWritten (s : State) (old : Word16) : State :=
  if rises old (s.ioAt s.cfg.ioIndex.hstctll) s.cfg.hstIntinBit then s.setPending s.cfg.bitHi true else s

/-- The interrupt-output callback called with 1, if there is one (R314, 41_host_interface.md R207); `call` says what
callback `cb` does. -/
def State.callIntout (call : Nat → State → Result State) (s : State) : Result State :=
  match s.intoutCb with
  | none => .next s
  | some cb => call cb s

/-- The HSTCTLL write (R314): a rising INTOUT emits the event and calls the callback; then the interrupt-in part. -/
def State.hstctllWritten (call : Nat → State → Result State) (s : State) (old : Word16) : Result State :=
  andThen
    (if rises old (s.ioAt s.cfg.ioIndex.hstctll) s.cfg.hstIntoutBit then (s.emit .intOut).callIntout call else .next s)
    (fun t => .next (t.intinWritten old))

/-- `write_register(A, v)` (R310): the raw store first, then the side effects of the register. -/
def State.writeRegisterWith (call : Nat → State → Result State) (s : State) (a : Addr) (v : Word16) : Result State :=
  let i := bankIndex s.cfg a
  let old := s.ioAt i
  let t := s.setIo i v
  if i = s.cfg.ioIndex.psize then .next t.recomputePixelshift
  else if i = s.cfg.ioIndex.control then .next t.recomputeRopSel
  else if i = s.cfg.ioIndex.hstctlh then .next (t.hstctlhWritten v)
  else if i = s.cfg.ioIndex.hstctll then t.hstctllWritten call old
  else if i = s.cfg.ioIndex.intpend then .next (t.setIo i (intpendAfterWrite s.cfg old v))
  else .next t

/-- `set_irq_line(line, level)` (41_host_interface.md R203): false is the configuration error. -/
def State.setIrqLine (s : State) (line : Int) (level : LineLevel) : Bool × State :=
  if line = 0 then (true, (s.setPending s.cfg.bitInt1 (level ≠ .clear)).setLine0 level)
  else if line = 1 then (true, (s.setPending s.cfg.bitInt2 (level ≠ .clear)).setLine1 level)
  else (false, s)

end Sys2Proof.Machine
end

