-- ==== Sys2Proof/Machine/Bus.lean ====
section
/-! DEFINITION. Bus handler calls and the read primitives (spec/20_memory.md R87 to R97, R101, R105). Reads run no
callback, so they always answer. -/

namespace Sys2Proof.Machine

/-- `map_memory` on the instance (R88). -/
def State.mapMemory (s : State) (buf start stop dir : Nat) : Bool × State :=
  let r := s.mem.mapMemory s.cfg buf start stop dir
  (r.1, s.setMem r.2)

/-- `map_handler` on the instance (R90). -/
def State.mapHandler (s : State) (id start stop dir : Nat) : Bool × State :=
  let r := s.mem.mapHandler s.cfg id start stop dir
  (r.1, s.setMem r.2)

/-- `set_handler(id, rd, wr)` (R91): false is the configuration error. -/
def State.setHandler (s : State) (id : Nat) (rd wr : BusFn) : Bool × State :=
  if id = 0 ∨ s.cfg.maxHandlers ≤ id then (false, s) else (true, { s with ht := s.ht.set id { rd := rd, wr := wr } })

/-- One action of a bus handler (R92). A configuration call that fails changes nothing (00_scope.md R15; log 16). -/
def State.applyAction (s : State) (act : BusAction) : State :=
  match act with
  | .mapMemory buf start stop dir => (s.mapMemory buf start stop dir).2
  | .mapHandler id start stop dir => (s.mapHandler id start stop dir).2
  | .setIrqLine line level => (s.setIrqLine line level).2
  | .stop => s.stop

/-- The actions of a bus handler, in order (R92, R93). -/
def State.applyActions : List BusAction → State → State
  | [], s => s
  | act :: acts, s => State.applyActions acts (s.applyAction act)

/-- Slot `id` of the bus handler table (R87). -/
def State.slot (s : State) (id : Nat) : BusFns :=
  match s.ht[id]? with
  | none => { rd := .openBus, wr := .openBus }
  | some h => h

/-- The all-ones value of a width (R101). -/
def allOnes (n : BusWidth) : Word16 :=
  match n with
  | .w8 => 0x00FF#16
  | .w16 => 0xFFFF#16

/-- A value cut to a width (R92, R95). -/
def cutTo (n : BusWidth) (v : Word16) : Word16 :=
  match n with
  | .w8 => v &&& 0x00FF#16
  | .w16 => v

/-- `IO_HANDLER.rd(A, n, T)` (R105): the register, or the byte of it that A[3] picks. -/
def State.ioBankRead (s : State) (a : Addr) (n : BusWidth) : Word16 :=
  match n with
  | .w16 => s.readRegister a
  | .w8 =>
    let r := s.readRegister (alignDown a)
    if a.getLsbD 3 then r &&& 0x00FF#16 else r >>> 8

/-- The read function of slot `id` called as `rd(A, n, T)` (R92): its value, its actions, and the state with a
platform's answer counted as a draw. -/
def State.callReadFn (s : State) (id : Nat) (a : Addr) (n : BusWidth) : Word16 × List BusAction × State :=
  match (s.slot id).rd with
  | .openBus => (allOnes n, [], s)
  | .ioBank => (s.ioBankRead a n, [], s)
  | .platform fn =>
    let r := Config.busRead fn a n s.reported s.draws
    (cutTo n r.1, r.2, s.tick)

/-- A read served by slot `id` (R92, R93): the call is recorded, and its actions take effect after it. -/
def State.handlerRead (s : State) (id : Nat) (a : Addr) (n : BusWidth) : Word16 × State :=
  let r := s.callReadFn id a n
  (r.1, (r.2.2.emit (.handlerRead id a n r.1)).applyActions r.2.1)

/-- `MemRead(A, 8)` (R95). -/
def State.memRead8 (s : State) (a : Addr) : Byte × State :=
  match s.mem.readEntry s.cfg a with
  | .memory buf off => (s.mem.byteAt buf (off + pageOffset s.cfg a), s)
  | .handler id =>
    let r := s.handlerRead id a .w8
    (r.1.extractLsb' 0 8, r.2)

/-- `MemRead(A, 16)` (R96). -/
def State.memRead16 (s : State) (a : Addr) : Word16 × State :=
  let a' := alignDown a
  match s.mem.readEntry s.cfg a' with
  | .memory buf off => (s.mem.wordAt buf (off + pageOffset s.cfg a'), s)
  | .handler id => s.handlerRead id a' .w16

/-- The two halves of `MemRead(A, 32)` in address order; each resolves its own page, the second after the actions of
the first (R93, R97). -/
def State.memReadHalves (s : State) (a : Addr) : Word16 × Word16 × State :=
  let first := s.memRead16 (alignDown a)
  let second := first.2.memRead16 (alignDown a + 16#32)
  (first.1, second.1, second.2)

/-- `MemRead(A, 32)` (R97). -/
def State.memRead32 (s : State) (a : Addr) : Word32 × State :=
  let r := s.memReadHalves a
  (joinHalves s.cfg.word32Order r.1 r.2.1, r.2.2)

end Sys2Proof.Machine
end

