-- ==== Sys2Proof/Machine/Timer.lean ====
section
/-! DEFINITION. The one-shot cycle timer (spec/60_exceptions.md R320 to R325). -/

namespace Sys2Proof.Machine

/-- The two points of an automatic timer check (R322, R323). -/
inductive CheckPoint where
  | entry
  | scanline
  deriving DecidableEq, Repr

/-- `timer_arm(d)` (R320): arming an armed timer is recorded, and the new delay wins. -/
def State.timerArm (s : State) (d : Int) : State :=
  let t := if s.timerActive then s.emit (.timerRearm s.timerCyc d) else s
  (t.setTimer true d).setStamp s.reported

/-- The timer fires (R321): the flag clears, the overshoot is discarded and `TimerFired` is emitted before the callback,
which `call` runs; no callback is the fault, in that state. -/
def State.fireTimer (call : Nat → State → Result State) (s : State) : Result State :=
  let t := (s.setTimer false 0).emit .timerFired
  match t.timerCb with
  | none => .fault (.unwiredPeripheral t)
  | some cb => call cb t

/-- `check_timer(e)` (R321). -/
def State.checkTimerWith (call : Nat → State → Result State) (s : State) (e : Int) : Result State :=
  if s.timerActive then
    let t := s.setTimer true (s.timerCyc - e)
    if t.timerCyc ≤ 0 then t.fireTimer call else .next t
  else .next s

/-- `timer_auto_check(point, budget)` (R323). -/
def State.timerAutoCheckWith (call : Nat → State → Result State) (s : State) (point : CheckPoint) (budget : Int) :
    Result State :=
  match s.cfg.timerPolicy, point with
  | .sinceLastCheck, _ => (s.setStamp s.reported).checkTimerWith call ((s.reported : Int) - s.timerStamp)
  | .budget, .entry => s.checkTimerWith call budget
  | .budget, .scanline => s.checkTimerWith call 0

end Sys2Proof.Machine
end

