-- ==== Sys2Proof/Machine/Scanline.lean ====
section
/-! DEFINITION. The scanline event sequencer (spec/60_exceptions.md R327 to R336). -/

namespace Sys2Proof.Machine

/-- The value of a bank register as a line number (R329, R331). -/
def State.ioLine (s : State) (i : Fin 64) : Int := (s.ioAt i).toNat

/-- `RENDER_WIN` (R331): `VEBLNK ≤ line < VSBLNK`, or the platform's predicate. -/
def State.inRenderWin (s : State) (line : Int) : Bool :=
  match s.cfg.renderWin with
  | .standard => decide (s.ioLine s.cfg.ioIndex.veblnk ≤ line ∧ line < s.ioLine s.cfg.ioIndex.vsblnk)
  | .platform => Config.renderWin line s.io

/-- `ADVANCE_WIN` (R331): `VEBLNK ≤ line < VSBLNK - 1`, or the platform's predicate. -/
def State.inAdvanceWin (s : State) (line : Int) : Bool :=
  match s.cfg.advanceWin with
  | .standard => decide (s.ioLine s.cfg.ioIndex.veblnk ≤ line ∧ line < s.ioLine s.cfg.ioIndex.vsblnk - 1)
  | .platform => Config.advanceWin line s.io

/-- The current-line register (R328). -/
def State.setCurrentLine (s : State) (line : Int) : State := s.setIo s.cfg.ioIndex.vcount (BitVec.ofInt 16 line)

/-- The display interrupt (R329): only its pending bit is set. -/
def State.raiseDisplayInterrupt (s : State) (line : Int) : State :=
  if (s.ioAt s.cfg.ioIndex.dpyctl).getLsbD s.cfg.dpyEnvBit.val ∧ line = s.ioLine s.cfg.ioIndex.dpyint then
    s.setPending s.cfg.bitDi true
  else s

/-- The display address reload at the vertical-blank-start line (R332). -/
def State.reloadDisplayAddress (s : State) (line : Int) : State :=
  if line = s.ioLine s.cfg.ioIndex.vsblnk then s.setIo s.cfg.ioIndex.dpyadr (s.ioAt s.cfg.ioIndex.dpystrt) else s

/-- The arguments of the render callback (R330). -/
def State.displayParams (s : State) : DisplayParams where
  dpyadr := s.ioAt s.cfg.ioIndex.dpyadr
  heblnk := s.ioAt s.cfg.ioIndex.heblnk
  hsblnk := s.ioAt s.cfg.ioIndex.hsblnk
  htotal := s.ioAt s.cfg.ioIndex.htotal

/-- The render call (R330): for a line of the render window, if there is a callback. -/
def State.renderLine (render : Option (DisplayParams → State → Result State)) (s : State) (line : Int) : Result State :=
  match render with
  | none => .next s
  | some call =>
    if s.inRenderWin line then call s.displayParams (s.emit (.render line s.displayParams)) else .next s

/-- The display address advance (R333). -/
def State.advanceDisplayAddress (s : State) (line : Int) : State :=
  if s.inAdvanceWin line then s.setIo s.cfg.ioIndex.dpyadr (Config.dpyadrStep s.io) else s

/-- The next line (R334): 0 from line VTOTAL - 1 on. -/
def State.nextLine (s : State) (line : Int) : Nat :=
  if s.ioLine s.cfg.ioIndex.vtotal ≤ line + 1 then 0 else (line + 1).toNat

/-- The steps of a scanline before the render call: VCOUNT, DI, reload (R328, R329, R332). -/
def State.beginLine (s : State) (line : Int) : State :=
  ((s.setCurrentLine line).raiseDisplayInterrupt line).reloadDisplayAddress line

/-- `generate_scanline(line, cb)` (R327); `onFire` runs the timer callback, `render` the render callback where there
is one. -/
def State.generateScanlineWith (onFire : Nat → State → Result State)
    (render : Option (DisplayParams → State → Result State)) (s : State) (line : Int) : Result (Nat × State) :=
  if line < 0 then .refused (.negativeLine s)
  else
    andThen (s.timerAutoCheckWith onFire .scanline 0) fun t =>
    andThen ((t.beginLine line).renderLine render line) fun u =>
    let v := u.advanceDisplayAddress line
    .next (v.nextLine line, v)

end Sys2Proof.Machine
end

