-- ==== Sys2Proof/Machine/Lifecycle.lean ====
section
/-! DEFINITION. `init`, `reset` and the save state (spec/41_host_interface.md R201, R213 to R217,
70_reset_and_hazards.md R360 to R364). -/

namespace Sys2Proof.Machine

/-- `init(config)` (R201): every field of Table S at its zero value, nothing mapped, every handler slot open bus, no
callback, no event. `rop_sel` is of OPEN type, so R201 names no zero value of it: the model takes `rop_select(0)`, what
10_state.md R46 makes it for the CONTROL of 0 that `init` leaves (DESIGN CHOICE, log 2). The buffers are the platform's
(20_memory.md R86). -/
def State.init (cfg : Params) (bufs : List Buffer) : State where
  cfg := cfg
  x := Vector.replicate 31 0#32
  pc := 0#32
  st := 0#32
  io := Vector.replicate 64 0#16
  pixelshift := 0
  ropSel := Config.ropSelect 0#16
  icounter := 0
  cyclesStart := 0
  totalCycles := 0
  inRun := false
  timerActive := false
  timerCyc := 0
  timerStamp := 0
  stopFlag := false
  line0 := .clear
  line1 := .clear
  shiftreg := List.replicate cfg.shiftregBytes 0#8
  mem := { rmap := [], wmap := [], bufs := bufs }
  ht := List.replicate cfg.maxHandlers { rd := .openBus, wr := .openBus }
  timerCb := none
  intoutCb := none
  events := []
  draws := 0
  inbox := []
  results := []

/-- The plain stores of `reset()` (R360): no side effect of a register write runs. -/
def State.zeroed (s : State) : State :=
  { s with
    x := Vector.replicate 31 0#32
    io := Vector.replicate 64 0#16
    icounter := 0
    cyclesStart := 0
    totalCycles := 0
    timerActive := false
    timerCyc := 0
    timerStamp := 0
    shiftreg := List.replicate s.cfg.shiftregBytes 0#8
    stopFlag := false
    line0 := .clear
    line1 := .clear }

/-- `pc <- MemRead(vec, 32)` (R360, 60_exceptions.md R284). -/
def State.loadVector (s : State) (vec : Addr) : State :=
  let r := s.memRead32 vec
  r.2.setPc r.1

/-- `reset()` outside a run (R360). -/
def State.resetNow (s : State) : State :=
  (s.zeroed.recomputePixelshift.recomputeRopSel.setSt s.cfg.stInit).loadVector s.cfg.vecReset

/-- `reset()` (R360): refused inside a run. -/
def State.resetOp (s : State) : Result State :=
  if s.inRun then .refused (.reentrantReset s) else .next s.resetNow

/-- The saved scalars after the I/O bank, items 5 to 9 of R215. -/
def State.saveCounters (s : State) : List SaveItem :=
  [SaveItem.int s.icounter, SaveItem.nat s.totalCycles, SaveItem.int s.cyclesStart, SaveItem.bool s.timerActive,
    SaveItem.int s.timerCyc]

/-- The saved scalars after the shift-register buffer, items 11 to 13 of R215. -/
def State.saveLines (s : State) : List SaveItem :=
  [SaveItem.bool s.stopFlag, SaveItem.level s.line0, SaveItem.level s.line1, SaveItem.nat s.timerStamp]

/-- The saved I/O registers, those that exist. -/
def State.savedIo (s : State) : List Word16 := s.io.toList.take s.cfg.ioregCount

/-- The items of a save state, in the fixed order of R215. -/
def State.saveItems (s : State) : List SaveItem :=
  SaveItem.word32 s.pc :: SaveItem.word32 s.st ::
    List.append (List.map SaveItem.word32 s.x.toList) (List.append (List.map SaveItem.word16 s.savedIo)
      (List.append s.saveCounters (List.append (List.map SaveItem.byte s.shiftreg) s.saveLines)))

/-- `serialize(sink)` (R215): refused inside a run. -/
def State.serializeOp (s : State) : Result (List SaveItem) :=
  if s.inRun then .refused (.serializeInRun s) else .next s.saveItems

/-- The fields of R215 as read back. -/
structure Saved where
  pc : Word32
  st : Word32
  x : List Word32
  io : List Word16
  icounter : Int
  totalCycles : Nat
  cyclesStart : Int
  timerActive : Bool
  timerCyc : Int
  shiftreg : List Byte
  stopFlag : Bool
  line0 : LineLevel
  line1 : LineLevel
  timerStamp : Nat

/-- A saved 32-bit field. -/
def SaveItem.word32? : SaveItem → Option Word32
  | .word32 v => some v
  | _ => none

/-- A saved 16-bit field. -/
def SaveItem.word16? : SaveItem → Option Word16
  | .word16 v => some v
  | _ => none

/-- A saved byte. -/
def SaveItem.byte? : SaveItem → Option Byte
  | .byte v => some v
  | _ => none

/-- A saved integer. -/
def SaveItem.int? : SaveItem → Option Int
  | .int v => some v
  | _ => none

/-- A saved natural number. -/
def SaveItem.nat? : SaveItem → Option Nat
  | .nat v => some v
  | _ => none

/-- A saved Boolean. -/
def SaveItem.bool? : SaveItem → Option Bool
  | .bool v => some v
  | _ => none

/-- A saved line level. -/
def SaveItem.level? : SaveItem → Option LineLevel
  | .level v => some v
  | _ => none

/-- One item of a kind from the front of a source, and what `k` makes of it and the rest. -/
def takeItem {α β : Type} (f : SaveItem → Option α) (src : List SaveItem) (k : α → List SaveItem → Option β) : Option β :=
  match src with
  | [] => none
  | item :: rest =>
    match f item with
    | none => none
    | some v => k v rest

/-- `n` items of a kind from the front of a source, and what `k` makes of them and the rest. -/
def takeItems {α β : Type} (f : SaveItem → Option α) : Nat → List SaveItem → (List α → List SaveItem → Option β) → Option β
  | 0, src, k => k [] src
  | n + 1, src, k => takeItem f src (fun v rest => takeItems f n rest (fun vs rest => k (v :: vs) rest))

/-- The fields of a source whose items are those of R215 in number, order and kind. -/
def readSaved (p : Params) (src : List SaveItem) : Option Saved :=
  takeItem SaveItem.word32? src fun pc src =>
  takeItem SaveItem.word32? src fun st src =>
  takeItems SaveItem.word32? 31 src fun x src =>
  takeItems SaveItem.word16? p.ioregCount src fun io src =>
  takeItem SaveItem.int? src fun icounter src =>
  takeItem SaveItem.nat? src fun totalCycles src =>
  takeItem SaveItem.int? src fun cyclesStart src =>
  takeItem SaveItem.bool? src fun timerActive src =>
  takeItem SaveItem.int? src fun timerCyc src =>
  takeItems SaveItem.byte? p.shiftregBytes src fun shiftreg src =>
  takeItem SaveItem.bool? src fun stopFlag src =>
  takeItem SaveItem.level? src fun line0 src =>
  takeItem SaveItem.level? src fun line1 src =>
  takeItem SaveItem.nat? src fun timerStamp src =>
  match src with
  | [] =>
    some { pc, st, x, io, icounter, totalCycles, cyclesStart, timerActive, timerCyc, shiftreg, stopFlag, line0, line1,
           timerStamp }
  | _ :: _ => none

/-- The saved fields written to the state (R216). -/
def State.restoreFields (s : State) (f : Saved) : State :=
  { s with
    pc := f.pc
    st := f.st
    x := Vector.ofFn (fun i => f.x.getD i.val 0#32)
    io := Vector.ofFn (fun i => f.io.getD i.val (s.ioAt i))
    icounter := f.icounter
    totalCycles := f.totalCycles
    cyclesStart := f.cyclesStart
    timerActive := f.timerActive
    timerCyc := f.timerCyc
    shiftreg := f.shiftreg
    stopFlag := f.stopFlag
    line0 := f.line0
    line1 := f.line1
    timerStamp := f.timerStamp }

/-- The saved fields written, and the caches recomputed from the restored registers (R216): no event-producing side
effect is repeated. -/
def State.restore (s : State) (f : Saved) : State := (s.restoreFields f).recomputePixelshift.recomputeRopSel

/-- `deserialize(source)` (R216): refused inside a run; false is the error of a source that does not match. -/
def State.deserializeOp (s : State) (src : List SaveItem) : Result (Bool × State) :=
  if s.inRun then .refused (.serializeInRun s)
  else
    match readSaved s.cfg src with
    | none => .next (false, s)
    | some f => .next (true, s.restore f)

end Sys2Proof.Machine
end

