-- ==== Sys2Proof/Machine/Collab.lean ====
section
/-! DEFINITION. Callbacks (spec/41_host_interface.md R206 to R209): what a collaborator's program of host calls does to
the core, and the operations of the core that may call one. -/

namespace Sys2Proof.Machine

/-- What a call of `run` by a callback does: the cycles it answers and the state after it, or no answer. -/
abbrev RunCall := Int → State → Result (Int × State)

/-- `run` called inside a run (40_dispatch_loop.md R176). -/
def refuseRun : RunCall := fun _ s => .refused (.reentrantRun s)

/-- A callback's program run inside the core (R208, 70_reset_and_hazards.md R378): each call takes effect at once. A
callback that a call runs in its turn does what the program says there, and a call of `run` does what `run` says. -/
def runCollab (run : RunCall) : CollabProg → State → Result State
  | .done, s => .next s
  | .stop k, s => runCollab run k s.stop
  | .setIrqLine line level k, s => runCollab run (k (s.setIrqLine line level).1) (s.setIrqLine line level).2
  | .readRegister a k, s => runCollab run (k (s.readRegister a)) s
  | .writeRegister a v intout k, s =>
    andThen (s.writeRegisterWith (fun _ => runCollab run intout) a v) (runCollab run k)
  | .totalCycles k, s => runCollab run (k s.reported) s
  | .timerArm d k, s => runCollab run k (s.timerArm d)
  | .checkTimer e onFire k, s => andThen (s.checkTimerWith (fun _ => runCollab run onFire) e) (runCollab run k)
  | .timerSetCallback cb k, s => runCollab run k (s.setTimerCb cb)
  | .setIntoutCallback cb k, s => runCollab run k (s.setIntoutCb cb)
  | .mapMemory buf start stop dir k, s =>
    runCollab run (k (s.mapMemory buf start stop dir).1) (s.mapMemory buf start stop dir).2
  | .mapHandler id start stop dir k, s =>
    runCollab run (k (s.mapHandler id start stop dir).1) (s.mapHandler id start stop dir).2
  | .setHandler id rd wr k, s => runCollab run (k (s.setHandler id rd wr).1) (s.setHandler id rd wr).2
  | .generateScanline line hasCb onFire render k, s =>
    andThen
      (s.generateScanlineWith (fun _ => runCollab run onFire)
        (if hasCb then some (fun params => runCollab run (render params)) else none) line)
      (fun r => runCollab run (k r.1) r.2)
  | .reset k, s => andThen s.resetOp (runCollab run k)
  | .serialize k, s => andThen s.serializeOp (fun items => runCollab run (k items) s)
  | .deserialize src k, s => andThen (s.deserializeOp src) (fun r => runCollab run (k r.1) r.2)
  | .readBuffer buf o k, s => runCollab run (k (s.mem.byteAt buf o)) s
  | .writeBuffer buf o v k, s => runCollab run k (s.setBuffer buf o v)
  | .run budget k, s => andThen (run budget s) (fun r => runCollab run (k r.1) r.2)

/-- The timer callback `cb` (R206): a free program (log 7). -/
def callTimerCb (run : RunCall) (cb : Nat) (s : State) : Result State :=
  runCollab run (Config.timerProgram cb s.draws) s.tick

/-- The interrupt-output callback `cb` (R207): a free program (log 7). -/
def callIntoutCb (run : RunCall) (cb : Nat) (s : State) : Result State :=
  runCollab run (Config.intoutProgram cb s.draws) s.tick

/-- The render callback `cb` (R209): a free program (log 7). -/
def callRenderCb (run : RunCall) (cb : Nat) (line : Int) (params : DisplayParams) (s : State) : Result State :=
  runCollab run (Config.renderProgram cb line params s.draws) s.tick

/-- `write_register(A, v)` (60_exceptions.md R310). -/
def State.writeRegister (s : State) (run : RunCall) (a : Addr) (v : Word16) : Result State :=
  s.writeRegisterWith (callIntoutCb run) a v

/-- `check_timer(e)` (60_exceptions.md R321). -/
def State.checkTimer (s : State) (run : RunCall) (e : Int) : Result State := s.checkTimerWith (callTimerCb run) e

/-- `timer_auto_check(point, budget)` (60_exceptions.md R323). -/
def State.timerAutoCheck (s : State) (run : RunCall) (point : CheckPoint) (budget : Int) : Result State :=
  s.timerAutoCheckWith (callTimerCb run) point budget

/-- `generate_scanline(line, cb)` (60_exceptions.md R327). -/
def State.generateScanline (s : State) (run : RunCall) (line : Int) (renderCb : Option Nat) : Result (Nat × State) :=
  s.generateScanlineWith (callTimerCb run) (renderCb.map (fun cb => callRenderCb run cb line)) line

end Sys2Proof.Machine
end

