-- ==== Sys2Proof/Machine/HandlerProg.lean ====
section
/-! DEFINITION. What an opcode handler of a platform's table is: a free program over the state
(spec/40_dispatch_loop.md R168). -/

namespace Sys2Proof

/-- What an opcode handler of a platform's table does (R168), a function of its word and the core's state: it reads any
part of the state (60_exceptions.md R340), writes `pc`, `st`, the register file and `shiftreg`, makes bus accesses, sets
WV (60_exceptions.md R278), may call `stop` (R172), may use the entry sequence with a vector of its own
(60_exceptions.md R271), may invoke a shift-register hook (41_host_interface.md R210), may call `run`, which is refused
(R176), and ends with a cost, a fault or a refusal of its own (60_exceptions.md R270). Nothing else can be written in it
(log 4). -/
inductive HandlerProg where
  | ret (cost : Nat)
  | fault (reason : Nat)
  | refuse (reason : Nat)
  | read (k : Machine.State → HandlerProg)
  | writePc (v : Addr) (k : HandlerProg)
  | writeSt (v : Word32) (k : HandlerProg)
  | writeX (i : Fin 31) (v : Word32) (k : HandlerProg)
  | writeShiftreg (i : Nat) (v : Byte) (k : HandlerProg)
  | memRead8 (a : Addr) (k : Byte → HandlerProg)
  | memRead16 (a : Addr) (k : Word16 → HandlerProg)
  | memRead32 (a : Addr) (k : Word32 → HandlerProg)
  | memWrite16 (a : Addr) (v : Word16) (k : HandlerProg)
  | memWrite32 (a : Addr) (v : Word32) (k : HandlerProg)
  | setWv (k : HandlerProg)
  | stop (k : HandlerProg)
  | trap (source : IntSource) (vec : Addr) (k : HandlerProg)
  | hook (k : HandlerProg)
  | run (budget : Int)
  deriving Inhabited

/-- What the opcode handler of index `k` in the platform's table does with word `w` (30_encoding.md R134; log 4): a free
value, declared here because its type speaks of the state. -/
opaque Config.handlerProgram : (k : Nat) → (w : Word16) → (draw : Nat) → HandlerProg

end Sys2Proof
end

