-- ==== Sys2Proof/Machine/Ops.lean ====
section
/-! DEFINITION. The write primitives (spec/20_memory.md R98 to R101), taking an interrupt and returning from one
(60_exceptions.md R275 to R291), the boundary of the dispatch loop, and the contract of an opcode handler
(40_dispatch_loop.md R168). -/

namespace Sys2Proof.Machine

/-- A write served by slot `id`, called as `wr(A, 16, v, T)` (R92, R93): the call is recorded, the function acts, and
its actions take effect after it (log 15). A write is made inside a run, where a callback's `run` is refused. -/
def State.handlerWrite (s : State) (id : Nat) (a : Addr) (v : Word16) : Result State :=
  let t := s.emit (.handlerWrite id a v)
  match (s.slot id).wr with
  | .openBus => .next t
  | .ioBank => t.writeRegister refuseRun a v
  | .platform fn => .next (t.tick.applyActions (Config.busWrite fn a v s.reported s.draws))

/-- `MemWrite(A, 16, v)` (R98). It always answers but where the I/O bank runs a callback that does not. -/
def State.memWrite16 (s : State) (a : Addr) (v : Word16) : Result State :=
  let a' := alignDown a
  match s.mem.writeEntry s.cfg a' with
  | .memory buf off => .next (s.setMem (s.mem.setWord buf (off + pageOffset s.cfg a') v))
  | .handler id => s.handlerWrite id a' v

/-- `MemWrite(A, 32, v)` (R100): the half of the lower address first. -/
def State.memWrite32 (s : State) (a : Addr) (v : Word32) : Result State :=
  andThen (s.memWrite16 (alignDown a) (firstHalf s.cfg.word32Order v)) fun t =>
  t.memWrite16 (alignDown a + 16#32) (secondHalf s.cfg.word32Order v)

/-- A push: SP down by 32, then the 32-bit write (60_exceptions.md R280). -/
def State.push32 (s : State) (v : Word32) : Result State :=
  let t := s.setSp (s.sp - 32#32)
  t.memWrite32 t.sp v

/-- A pop: the 32-bit read, then SP up by 32 (60_exceptions.md R286). -/
def State.pop32 (s : State) : Word32 × State :=
  let r := s.memRead32 s.sp
  (r.1, r.2.setSp (r.2.sp + 32#32))

/-- The end of the entry sequence (R280): `st <- ST_INIT`, `pc` from the vector, the latency, the event. -/
def State.enterVector (s : State) (source : IntSource) (vec : Addr) : State :=
  let t := (s.setSt s.cfg.stInit).loadVector vec
  (t.charge t.cfg.intLatency).emit (.interruptTaken source vec t.pc)

/-- TAKING AN INTERRUPT: `take(s, vec)` (R280): push `pc`, push `st`, then `enterVector`. -/
def State.take (s : State) (source : IntSource) (vec : Addr) : Result State :=
  andThen (s.push32 s.pc) fun t =>
  andThen (t.push32 t.st) fun u =>
  .next (u.enterVector source vec)

/-- RETURNING FROM AN INTERRUPT: `reti()` (R286): pop `st`, pop `pc`. -/
def State.returnFromInterrupt (s : State) : State :=
  let r := s.pop32
  let t := r.2.setSt r.1
  let q := t.pop32
  q.2.setPc q.1

/-- The vector of a source (R272). -/
def vectorOf (p : Params) (source : IntSource) : Addr :=
  match source with
  | .nmi => p.vecNmi
  | .hi => p.vecHi
  | .di => p.vecDi
  | .wv => p.vecWv
  | .int1 => p.vecInt1
  | .int2 => p.vecInt2

/-- NMI-pending (R279, 10_state.md R54). -/
def State.nmiPending (s : State) : Bool := (s.ioAt s.cfg.ioIndex.hstctlh).getLsbD s.cfg.hstNmiBit.val

/-- The enabled pending maskable sources, `io[INTPEND] & io[INTENB] & SRC_MASK` (R275). -/
def State.irq (s : State) : Word16 := s.ioAt s.cfg.ioIndex.intpend &&& s.ioAt s.cfg.ioIndex.intenb &&& srcMask s.cfg

/-- Maskable-pending (R276, 10_state.md R54). -/
def State.maskablePending (s : State) : Bool := s.ie && decide (s.irq ≠ 0#16)

/-- The highest of the sources in `irq` (R277). -/
def highest (p : Params) (irq : Word16) : IntSource :=
  if irq.getLsbD p.bitHi.val then .hi
  else if irq.getLsbD p.bitDi.val then .di
  else if irq.getLsbD p.bitWv.val then .wv
  else if irq.getLsbD p.bitInt1.val then .int1
  else .int2

/-- `hold_clear(0)`, if INT1 is the source taken and its line was driven with HOLD (R275, R282). -/
def State.holdClear0 (s : State) (source : IntSource) : State :=
  if source = .int1 ∧ s.line0 = .hold then (s.setPending s.cfg.bitInt1 false).setLine0 .clear else s

/-- `hold_clear(1)`, if INT2 is the source taken and its line was driven with HOLD (R275, R282). -/
def State.holdClear1 (s : State) (source : IntSource) : State :=
  if source = .int2 ∧ s.line1 = .hold then (s.setPending s.cfg.bitInt2 false).setLine1 .clear else s

/-- A maskable source taken (R275). -/
def State.takeMaskable (s : State) : Result State :=
  let source := highest s.cfg s.irq
  andThen (s.take source (vectorOf s.cfg source)) fun t => .next ((t.holdClear0 source).holdClear1 source)

/-- The NMI taken: its request is cleared first (R275, R279). -/
def State.takeNmi (s : State) : Result State :=
  let h := s.cfg.ioIndex.hstctlh
  (s.setIo h (setBit16 (s.ioAt h) s.cfg.hstNmiBit false)).take .nmi (vectorOf s.cfg .nmi)

/-- `service_interrupts()` (R275): at most one interrupt, NMI first. -/
def State.serviceInterrupts (s : State) : Result State :=
  if s.nmiPending then s.takeNmi
  else if s.maskablePending then s.takeMaskable
  else .next s

/-- The loop condition, tested between iterations (40_dispatch_loop.md R164). -/
def State.loopCondition (s : State) : Bool := decide (0 < s.icounter) && !s.stopFlag

/-- What an opcode handler of a platform's table does (40_dispatch_loop.md R168); its cost is charged at the end, after
its effects (R169). A handler runs only inside a run, so its call of `run` is refused (R176). -/
def runHandler : HandlerProg → State → Result State
  | .ret cost, s => .next (s.charge cost)
  | .fault reason, s => .fault (.handlerFault reason s)
  | .refuse reason, s => .refused (.handlerRefusal reason s)
  | .read k, s => runHandler (k s) s
  | .writePc v k, s => runHandler k (s.setPc v)
  | .writeSt v k, s => runHandler k (s.setSt v)
  | .writeX i v k, s => runHandler k (s.setX i v)
  | .writeShiftreg i v k, s => runHandler k { s with shiftreg := s.shiftreg.set i v }
  | .memRead8 a k, s => runHandler (k (s.memRead8 a).1) (s.memRead8 a).2
  | .memRead16 a k, s => runHandler (k (s.memRead16 a).1) (s.memRead16 a).2
  | .memRead32 a k, s => runHandler (k (s.memRead32 a).1) (s.memRead32 a).2
  | .memWrite16 a v k, s => andThen (s.memWrite16 a v) (runHandler k)
  | .memWrite32 a v k, s => andThen (s.memWrite32 a v) (runHandler k)
  | .setWv k, s => runHandler k (s.setPending s.cfg.bitWv true)
  | .stop k, s => runHandler k s.stop
  | .trap source vec k, s => andThen (s.take source vec) (runHandler k)
  | .hook k, s => if s.cfg.shiftHooksWired then runHandler k s else .fault (.unwiredPeripheral s)
  | .run _, s => .refused (.reentrantRun s)

end Sys2Proof.Machine
end

