-- ==== Sys2Proof/Machine/Operands.lean ====
section
/-! DEFINITION. Fetching an instruction and the operand forms of TH (spec/40_dispatch_loop.md R166, R167,
30_encoding.md R131, R137, R138). -/

namespace Sys2Proof.Machine

/-- The fetch of the opcode word (R166): the diagnostic, the alignment, the read, the advance by the dispatch width,
`FETCH_WIDTH` (00_scope.md R7). -/
def State.fetchOpcode (s : State) : Word16 × State :=
  let t := if s.pc &&& 0xF#32 ≠ 0#32 then s.emit (.misalignedFetch s.pc) else s
  let u := t.setPc (alignDown t.pc)
  let r := u.memRead16 u.pc
  (r.1, r.2.setPc (r.2.pc + BitVec.ofNat 32 r.2.cfg.fetchWidth))

/-- A 16-bit operand: `MemRead(pc, 16)` and the advance by 16 (R131); the word that is not there is given as 0. -/
def State.fetchOperand16 (s : State) : Word16 × Word16 × State :=
  let r := s.memRead16 s.pc
  (r.1, 0#16, r.2.setPc (r.2.pc + 16#32))

/-- A 32-bit operand as its two words in address order: `MemRead(pc, 32)` and the advance by 32 (R131, R137). -/
def State.fetchOperand32 (s : State) : Word16 × Word16 × State :=
  let r := s.memReadHalves s.pc
  (r.1, r.2.1, r.2.2.setPc (r.2.2.pc + 32#32))

/-- The operand words of opcode word `w` (R137): none, one, or two. -/
def State.fetchOperands (s : State) (w : Word16) : Word16 × Word16 × State :=
  match operandWords s.cfg.handlers w with
  | 0 => (0#16, 0#16, s)
  | 1 => s.fetchOperand16
  | _ => s.fetchOperand32

/-- The instruction of opcode word `w` and its operand words at `pc`, and the state past them. -/
def State.fetchRest (s : State) (w : Word16) : Instr × State :=
  let r := s.fetchOperands w
  (decodeWords s.cfg.handlers s.cfg.word32Order w r.1 r.2.1, r.2.2)

/-- The next instruction and the state in which its meaning runs: `pc` past the whole of it (R167; log 17). -/
def State.fetchInstr (s : State) : Instr × State :=
  let r := s.fetchOpcode
  r.2.fetchRest r.1

/-- `sext_32(imm16)` (R138). -/
def sext32 (v : Word16) : Word32 := v.signExtend 32

/-- A DSJ displacement as a bit-address offset: `sext_32(disp16) × 16` (R138). -/
def dispOffset (disp : Word16) : Word32 := sext32 disp * 16#32

/-- `zext_32(v)` (45_test_handlers.md R237). -/
def zext32 (v : Word16) : Word32 := v.setWidth 32

/-- `A(n)[15:0]` (45_test_handlers.md R236). -/
def lowHalf (v : Word32) : Word16 := v.setWidth 16

end Sys2Proof.Machine
end

