-- ==== Sys2Proof/Machine/Arith.lean ====
section
/-! DEFINITION. NOP, MOVI and ADDI (spec/45_test_handlers.md R230 to R232). A meaning runs with `pc` past the whole
instruction and ends by charging the cost (40_dispatch_loop.md R167, R169). -/

namespace Sys2Proof.Machine

/-- NOP (R230): cost 1. -/
def execNop (_n : RegNo) (s : State) : Result State := .next (s.charge 1)

/-- MOVI An, imm32 (R231): cost 3. -/
def execMovi (n : RegNo) (imm : Word32) (s : State) : Result State := .next ((s.setA n imm).charge 3)

/-- ADDI An, imm16 (R232): cost 2. -/
def execAddi (n : RegNo) (imm : Word16) (s : State) : Result State := .next ((s.setA n (s.a n + sext32 imm)).charge 2)

end Sys2Proof.Machine
end

