-- ==== Sys2Proof/Machine/Control.lean ====
section
/-! DEFINITION. DSJ, JMPA and TSTOP (spec/45_test_handlers.md R233, R241, R242). -/

namespace Sys2Proof.Machine

/-- DSJ An, label (R233): the displacement counts from the `pc` past it; cost 3 when the jump is taken, else 2. -/
def execDsj (n : RegNo) (disp : Word16) (s : State) : Result State :=
  let t := s.setA n (s.a n - 1#32)
  if t.a n ≠ 0#32 then .next ((t.setPc (t.pc + dispOffset disp)).charge 3) else .next (t.charge 2)

/-- JMPA @addr32 (R241): an unaligned target is kept; cost 3. -/
def execJmpa (_n : RegNo) (addr : Addr) (s : State) : Result State := .next ((s.setPc addr).charge 3)

/-- TSTOP (R242): `stop()`; cost 1. -/
def execTstop (_n : RegNo) (s : State) : Result State := .next (s.stop.charge 1)

end Sys2Proof.Machine
end

