-- ==== Sys2Proof/Machine/LoadStore.lean ====
section
/-! DEFINITION. STL, LDL, STW and LDW (spec/45_test_handlers.md R234 to R237). -/

namespace Sys2Proof.Machine

/-- STL An, @addr32 (R234): cost 4. -/
def execStl (n : RegNo) (addr : Addr) (s : State) : Result State :=
  andThen (s.memWrite32 addr (s.a n)) fun t => .next (t.charge 4)

/-- LDL An, @addr32 (R235): cost 4. -/
def execLdl (n : RegNo) (addr : Addr) (s : State) : Result State :=
  let r := s.memRead32 addr
  .next ((r.2.setA n r.1).charge 4)

/-- STW An, @addr32 (R236): the low 16 bits; cost 3. -/
def execStw (n : RegNo) (addr : Addr) (s : State) : Result State :=
  andThen (s.memWrite16 addr (lowHalf (s.a n))) fun t => .next (t.charge 3)

/-- LDW An, @addr32 (R237): zero-extended; cost 3. -/
def execLdw (n : RegNo) (addr : Addr) (s : State) : Result State :=
  let r := s.memRead16 addr
  .next ((r.2.setA n (zext32 r.1)).charge 3)

end Sys2Proof.Machine
end

