-- ==== Sys2Proof/Machine/System.lean ====
section
/-! DEFINITION. EINT, DINT and RETI (spec/45_test_handlers.md R238 to R240). -/

namespace Sys2Proof.Machine

/-- EINT (R238): IE set; cost 1. -/
def execEint (_n : RegNo) (s : State) : Result State := .next ((s.setSt (stWithIe s.cfg s.st true)).charge 1)

/-- DINT (R239): IE cleared; cost 1. -/
def execDint (_n : RegNo) (s : State) : Result State := .next ((s.setSt (stWithIe s.cfg s.st false)).charge 1)

/-- RETI (R240): the return sequence; cost 8. -/
def execReti (_n : RegNo) (s : State) : Result State := .next (s.returnFromInterrupt.charge 8)

end Sys2Proof.Machine
end

