-- ==== Sys2Proof/Machine/HandlerTable.lean ====
section
/-! DEFINITION. DISPATCH, the generic dispatch of an opcode word through HANDLERS (spec/40_dispatch_loop.md R168, R169,
30_encoding.md R132 to R135, 45_test_handlers.md R243, R244). -/

namespace Sys2Proof.Machine

/-- The dispatch index, `k = w >> DISPATCH_SHIFT` (30_encoding.md R132). -/
def dispatchIndex (p : Params) (w : Word16) : Nat := w.toNat / 2 ^ p.dispatchShift.val

/-- The handler of an instruction of TH (45_test_handlers.md R244); a word of an unassigned index has no meaning in TH
and is refused with the word (R243). -/
def thHandler (i : Instr) (s : State) : Result State :=
  match i with
  | .dispatch w => .refused (.unassignedTestOpcode w s)
  | .nop n => execNop n s
  | .movi n imm => execMovi n imm s
  | .addi n imm => execAddi n imm s
  | .dsj n disp => execDsj n disp s
  | .stl n addr => execStl n addr s
  | .ldl n addr => execLdl n addr s
  | .stw n addr => execStw n addr s
  | .ldw n addr => execLdw n addr s
  | .eint n => execEint n s
  | .dint n => execDint n s
  | .reti n => execReti n s
  | .jmpa n addr => execJmpa n addr s
  | .tstop n => execTstop n s

/-- DISPATCH (R169): the handler of index `k` runs with the whole word and `pc` just past it. Under TH it fetches its
operand words and does what its instruction does; a handler of a platform's table is a free program (log 4). -/
def execDispatch (w : Word16) (s : State) : Result State :=
  match s.cfg.handlers with
  | .th =>
    let r := s.fetchRest w
    thHandler r.1 r.2
  | .platform => runHandler (Config.handlerProgram (dispatchIndex s.cfg w) w s.draws) s.tick

end Sys2Proof.Machine
end

