-- ==== Sys2Proof/Machine/Dispatch.lean ====
section
/-! DEFINITION. The dispatch of an instruction to its meaning, one arm per row of spec/opcode_table.json. -/

namespace Sys2Proof.Machine

def exec (i : Instr) (s : State) : Host.Outcome State Fault Refusal :=
  match i with
  | .dispatch w => Sys2Proof.Machine.execDispatch w s
  | .nop n => Sys2Proof.Machine.execNop n s
  | .movi n imm => Sys2Proof.Machine.execMovi n imm s
  | .addi n imm => Sys2Proof.Machine.execAddi n imm s
  | .dsj n disp => Sys2Proof.Machine.execDsj n disp s
  | .stl n addr => Sys2Proof.Machine.execStl n addr s
  | .ldl n addr => Sys2Proof.Machine.execLdl n addr s
  | .stw n addr => Sys2Proof.Machine.execStw n addr s
  | .ldw n addr => Sys2Proof.Machine.execLdw n addr s
  | .eint n => Sys2Proof.Machine.execEint n s
  | .dint n => Sys2Proof.Machine.execDint n s
  | .reti n => Sys2Proof.Machine.execReti n s
  | .jmpa n addr => Sys2Proof.Machine.execJmpa n addr s
  | .tstop n => Sys2Proof.Machine.execTstop n s

end Sys2Proof.Machine
end

