-- ==== Sys2Proof/Machine/Run.lean ====
section
/-! DEFINITION. The entry of `run`, an iteration of the loop, the exit, and a whole run as a callback between runs makes
it (spec/40_dispatch_loop.md R160 to R170, R175, R176, R178). -/

namespace Sys2Proof.Machine

/-- The halt state, `io[HSTCTLH][HST_HLT_BIT]` (10_state.md R51). -/
def State.halted (s : State) : Bool := (s.ioAt s.cfg.ioIndex.hstctlh).getLsbD s.cfg.hstHltBit.val

/-- The entry of a run (R162). -/
def State.startRun (s : State) (budget : Int) : State :=
  { s with cyclesStart := budget, icounter := budget, stopFlag := false, inRun := true }

/-- The entry of a run and its timer check, which is inside the run (R162, R163). -/
def State.enterRun (s : State) (budget : Int) : Result State :=
  (s.startRun budget).timerAutoCheck refuseRun .entry budget

/-- One iteration (R164 to R169): the interrupt check, then the fetch, then the instruction. -/
def iteration (s : State) : Host.Outcome State Fault Refusal :=
  andThen s.serviceInterrupts fun t => exec t.fetchInstr.1 t.fetchInstr.2

/-- The cycles a run has consumed (R170). -/
def State.consumed (s : State) : Int := s.cyclesStart - s.icounter

/-- The exit step of a run (R170). -/
def State.endRun (s : State) : State := { s with totalCycles := asTotal (s.totalCycles + s.consumed), inRun := false }

/-- The loop of a run (R164), at most `fuel` iterations of it (R178; log 8). -/
def runLoop : (fuel : Nat) → State → Result State
  | 0, s => if s.loopCondition then .refused (.callbackRunUnfinished s) else .next s
  | fuel + 1, s => if s.loopCondition then andThen (iteration s) (runLoop fuel) else .next s

/-- `run(budget)` called by a callback (41_host_interface.md R208): refused inside a run (R176); between runs the whole
run happens before the callback goes on (R160). -/
def State.nestedRun : RunCall := fun budget s =>
  if s.inRun then .refused (.reentrantRun s)
  else if s.halted then .next (0, s)
  else
    andThen (s.enterRun budget) fun t =>
    andThen (runLoop (Config.extraIterations + budget.toNat) t) fun u => .next (u.consumed, u.endRun)

end Sys2Proof.Machine
end

