-- ==== Sys2Proof/Machine/HostCalls.lean ====
section
/-! DEFINITION. `run` and the other operations the host calls between runs (spec/41_host_interface.md R200,
40_dispatch_loop.md R160 to R162, R170, R175, R176). -/

namespace Sys2Proof.Machine

/-- Records what a completed host call returned (log 13). -/
def State.answer (s : State) (r : HostResult) : State := { s with results := s.results ++ [r] }

/-- The entry step of `run(budget)` (R160 to R163): a halted core returns 0 and writes nothing else. -/
def State.runEntry (s : State) (budget : Int) : Result State :=
  if s.inRun then .refused (.reentrantRun s)
  else if s.halted then .next (s.answer (.consumed 0))
  else s.enterRun budget

/-- The exit step of the host's `run`, with the count it returns (R170). -/
def State.runExit (s : State) : State := s.endRun.answer (.consumed s.consumed)

/-- Ok or error, as a configuration call returns it (41_host_interface.md R211). -/
def okOrError (r : Bool × State) : State := r.2.answer (if r.1 then .ok else .error)

/-- One host call (41_host_interface.md R200), what it returns recorded. Outside a run a callback's `run` is made. -/
def State.hostCall (s : State) (op : HostOp) : Result State :=
  match op with
  | .reset => andThen s.resetOp fun t => .next (t.answer .unit)
  | .run budget => s.runEntry budget
  | .stop => .next (s.stop.answer .unit)
  | .setIrqLine line level => .next (okOrError (s.setIrqLine line level))
  | .generateScanline line renderCb =>
    andThen (s.generateScanline State.nestedRun line renderCb) fun r => .next (r.2.answer (.nextLine r.1))
  | .totalCycles => .next (s.answer (.total s.reported))
  | .mapMemory buf start stop dir => .next (okOrError (s.mapMemory buf start stop dir))
  | .mapHandler id start stop dir => .next (okOrError (s.mapHandler id start stop dir))
  | .setHandler id rd wr => .next (okOrError (s.setHandler id rd wr))
  | .timerSetCallback cb => .next ((s.setTimerCb cb).answer .unit)
  | .timerArm d => .next ((s.timerArm d).answer .unit)
  | .checkTimer e => andThen (s.checkTimer State.nestedRun e) fun t => .next (t.answer .unit)
  | .setIntoutCallback cb => .next ((s.setIntoutCb cb).answer .unit)
  | .writeRegister a v => andThen (s.writeRegister State.nestedRun a v) fun t => .next (t.answer .unit)
  | .readRegister a => .next (s.answer (.value (s.readRegister a)))
  | .serialize => andThen s.serializeOp fun items => .next (s.answer (.saved items))
  | .deserialize src => andThen (s.deserializeOp src) fun r => .next (okOrError r)
  | .writeBuffer buf o v => .next ((s.setBuffer buf o v).answer .unit)

/-- The step between runs: the next host call of the queue, or, with none, nothing (log 13). -/
def State.hostStep (s : State) : Result State :=
  match s.inbox with
  | [] => .next s
  | op :: rest => ({ s with inbox := rest } : State).hostCall op

end Sys2Proof.Machine
end

