-- ==== Sys2Proof/Machine/Load.lean ====
section
/-! DEFINITION. The load of one instruction from outside the machine, for `State.withFetchWord` (log 12). -/

namespace Sys2Proof.Machine

/-- A run that has a next iteration: between runs, as `run(1)` starts one; inside a run, a budget left and no stop. -/
def State.readyToIterate (s : State) : State :=
  if s.inRun then { s with icounter := if 0 < s.icounter then s.icounter else 1, stopFlag := false }
  else { s with cyclesStart := 1, icounter := 1, stopFlag := false, inRun := true }

/-- A boundary with no interrupt to take: where there is one, the NMI request is withdrawn and no source enabled. -/
def State.quietBoundary (s : State) : State :=
  if s.nmiPending || s.maskablePending then
    let h := s.cfg.ioIndex.hstctlh
    (s.setIo h (setBit16 (s.ioAt h) s.cfg.hstNmiBit false)).setIo s.cfg.ioIndex.intenb 0#16
  else s

/-- The memory with a fresh page of zeros read at `a`. -/
def Memory.withCodePage (m : Memory) (p : Params) (a : Addr) : Memory :=
  { m with
    rmap := sparseSet unmapped m.rmap (page p a) (.memory m.bufs.length 0)
    bufs := m.bufs ++ [{ len := p.pageBytes, cells := [] }] }

/-- The memory in which a read of `a` reaches a byte of a buffer: as it is, or with a fresh page. -/
def Memory.withReadable (m : Memory) (p : Params) (a : Addr) : Memory :=
  match m.readEntry p a with
  | .memory buf off => if off + p.pageBytes ≤ m.bufLen buf then m else m.withCodePage p a
  | .handler _ => m.withCodePage p a

/-- The memory with word `v` where a 16-bit read of the aligned `a` finds it. -/
def Memory.placeWord (m : Memory) (p : Params) (a : Addr) (v : Word16) : Memory :=
  let m' := m.withReadable p a
  match m'.readEntry p a with
  | .memory buf off => m'.setWord buf (off + pageOffset p a) v
  | .handler _ => m'

/-- The memory with words at increasing addresses from the aligned `a`. -/
def Memory.placeWords (p : Params) : List Word16 → Memory → Addr → Memory
  | [], m, _ => m
  | w :: ws, m, a => Memory.placeWords p ws (m.placeWord p a w) (a + 16#32)

/-- The state with an opcode word where the next fetch reads it, and the words after it where the operands are read. -/
def State.placeCode (s : State) (ws : List Word16) : State :=
  let a := alignDown s.pc
  let m := Memory.placeWords s.cfg (ws.take 1) s.mem a
  s.setMem (Memory.placeWords s.cfg (ws.drop 1) m (alignDown (a + BitVec.ofNat 32 s.cfg.fetchWidth)))

end Sys2Proof.Machine
end

