-- ==== Sys2Proof/Machine/Step.lean ====
section
/-! DEFINITION. One step of the machine: a host call between runs, an iteration of the dispatch loop or the exit inside
a run (spec/40_dispatch_loop.md R160, R164). -/

namespace Sys2Proof.Machine

/-- One step. -/
def step (s : State) : Host.Outcome State Fault Refusal :=
  if s.inRun then (if s.loopCondition then iteration s else .next s.runExit) else s.hostStep

/-- The state with one instruction where the next step fetches it, in a run that has a next iteration (log 12). -/
def State.withFetchWord (s : State) (nbits w : Nat) : State :=
  s.readyToIterate.quietBoundary.placeCode (tableWords nbits w)

end Sys2Proof.Machine
end

