-- ==== Sys2Proof/Safety.lean ====
section
/-! DEFINITION. What a good state is, what a bus access may touch, and the reads a claim speaks of. -/

namespace Sys2Proof.Machine

/-- The caches are those of their registers (spec/10_state.md R46): `pixelshift` of a legal PSIZE, `rop_sel` of
CONTROL. -/
def State.cachesCurrent (s : State) : Prop :=
  (∀ k, pixelshiftOf (s.ioAt s.cfg.ioIndex.psize) = some k → s.pixelshift = k)
  ∧ s.ropSel = Config.ropSelect (s.ioAt s.cfg.ioIndex.control)

/-- A good state: consistent parameters, memory in its canonical form with every page entry reaching whole blocks, a
handler table of its size whose slot 0 is the open bus (20_memory.md R87), a shift-register buffer of its size
(10_state.md R55), and current caches (R46). -/
def State.Inv (s : State) : Prop :=
  s.cfg.wf
  ∧ s.mem.wf s.cfg
  ∧ s.ht.length = s.cfg.maxHandlers
  ∧ s.slot 0 = { rd := .openBus, wr := .openBus }
  ∧ s.shiftreg.length = s.cfg.shiftregBytes
  ∧ s.cachesCurrent

/-- The bits of INTPEND outside the five sources are 0 (10_state.md R40). -/
abbrev State.intpendSourcesOnly (s : State) : Prop := s.ioAt s.cfg.ioIndex.intpend &&& ~~~(srcMask s.cfg) = 0#16

/-- Everything but the event history, the draws, the page tables, the external lines with their INTPEND bits, and the
stop flag is as before: what the calls and actions of bus handlers can touch (20_memory.md R92). -/
structure State.OnlyBusEffects (s t : State) : Prop where
  cfg : t.cfg = s.cfg
  x : t.x = s.x
  pc : t.pc = s.pc
  st : t.st = s.st
  io : ∀ i, i ≠ s.cfg.ioIndex.intpend → t.ioAt i = s.ioAt i
  intpend : ∀ j, j < 16 → j ≠ s.cfg.bitInt1.val → j ≠ s.cfg.bitInt2.val →
    (t.ioAt s.cfg.ioIndex.intpend).getLsbD j = (s.ioAt s.cfg.ioIndex.intpend).getLsbD j
  pixelshift : t.pixelshift = s.pixelshift
  ropSel : t.ropSel = s.ropSel
  icounter : t.icounter = s.icounter
  cyclesStart : t.cyclesStart = s.cyclesStart
  totalCycles : t.totalCycles = s.totalCycles
  inRun : t.inRun = s.inRun
  timerActive : t.timerActive = s.timerActive
  timerCyc : t.timerCyc = s.timerCyc
  timerStamp : t.timerStamp = s.timerStamp
  shiftreg : t.shiftreg = s.shiftreg
  bytes : t.mem.bufs = s.mem.bufs
  ht : t.ht = s.ht
  timerCb : t.timerCb = s.timerCb
  intoutCb : t.intoutCb = s.intoutCb
  inbox : t.inbox = s.inbox
  results : t.results = s.results

/-- Everything but the event history, the draws, the page tables, the bytes, the I/O bank with its caches, the external
lines, the stop flag and the cycle budget is as before: what a bus write can touch where it runs no callback
(20_memory.md R92, 60_exceptions.md R310 to R315). -/
structure State.OnlyStoreEffects (s t : State) : Prop where
  cfg : t.cfg = s.cfg
  x : t.x = s.x
  pc : t.pc = s.pc
  st : t.st = s.st
  cyclesStart : t.cyclesStart = s.cyclesStart
  totalCycles : t.totalCycles = s.totalCycles
  inRun : t.inRun = s.inRun
  timerActive : t.timerActive = s.timerActive
  timerCyc : t.timerCyc = s.timerCyc
  timerStamp : t.timerStamp = s.timerStamp
  shiftreg : t.shiftreg = s.shiftreg
  ht : t.ht = s.ht
  timerCb : t.timerCb = s.timerCb
  intoutCb : t.intoutCb = s.intoutCb
  inbox : t.inbox = s.inbox
  results : t.results = s.results

/-- What an opcode handler of a platform's table must keep: as `OnlyStoreEffects`, but it may write `pc`, `st`, the
register file and the shift-register buffer (40_dispatch_loop.md R168). -/
structure State.OnlyHandlerEffects (s t : State) : Prop where
  cfg : t.cfg = s.cfg
  cyclesStart : t.cyclesStart = s.cyclesStart
  totalCycles : t.totalCycles = s.totalCycles
  inRun : t.inRun = s.inRun
  timerActive : t.timerActive = s.timerActive
  timerCyc : t.timerCyc = s.timerCyc
  timerStamp : t.timerStamp = s.timerStamp
  ht : t.ht = s.ht
  timerCb : t.timerCb = s.timerCb
  intoutCb : t.intoutCb = s.intoutCb
  inbox : t.inbox = s.inbox
  results : t.results = s.results

/-- A handler's program that makes no bus access, no call of `stop` and no entry sequence of its own, along any path
(40_dispatch_loop.md R168). -/
def directHandler : HandlerProg → Prop
  | .ret _ => True
  | .fault _ => True
  | .refuse _ => True
  | .read k => ∀ s, directHandler (k s)
  | .writePc _ k => directHandler k
  | .writeSt _ k => directHandler k
  | .writeX _ _ k => directHandler k
  | .writeShiftreg _ _ k => directHandler k
  | .memRead8 _ _ => False
  | .memRead16 _ _ => False
  | .memRead32 _ _ => False
  | .memWrite16 _ _ _ => False
  | .memWrite32 _ _ _ => False
  | .setWv k => directHandler k
  | .stop _ => False
  | .trap _ _ _ => False
  | .hook k => directHandler k
  | .run _ => True

/-- Steps one after the other, each from where the one before it led. -/
def stepN : Nat → State → Result State
  | 0, s => .next s
  | n + 1, s => andThen (step s) (stepN n)

/-- The kinds of the items of a save state (41_host_interface.md R215; log 21). -/
inductive SaveKind where
  | word32
  | word16
  | byte
  | int
  | nat
  | bool
  | level
  deriving DecidableEq, Repr

/-- The kind of an item. -/
def kindOf (item : SaveItem) : SaveKind :=
  match item with
  | .word32 _ => .word32
  | .word16 _ => .word16
  | .byte _ => .byte
  | .int _ => .int
  | .nat _ => .nat
  | .bool _ => .bool
  | .level _ => .level

/-- The kinds of the fields of R215, in its order: what a source must match to load (R216). -/
def savedKinds (p : Params) : List SaveKind :=
  [.word32, .word32] ++ List.replicate 31 .word32 ++ List.replicate p.ioregCount .word16
    ++ [.int, .nat, .int, .bool, .int] ++ List.replicate p.shiftregBytes .byte ++ [.bool, .level, .level, .nat]

/-- The maskable sources, the highest first (60_exceptions.md R272). -/
def maskableSources : List IntSource := [.hi, .di, .wv, .int1, .int2]

/-- The bit that requests a source: of HSTCTLH for NMI, of INTPEND and INTENB for the others (R272). -/
def sourceBit (p : Params) (source : IntSource) : Fin 16 :=
  match source with
  | .nmi => p.hstNmiBit
  | .hi => p.bitHi
  | .di => p.bitDi
  | .wv => p.bitWv
  | .int1 => p.bitInt1
  | .int2 => p.bitInt2

/-- A maskable source is pending and enabled (R276). -/
def State.wants (s : State) (source : IntSource) : Bool :=
  (s.ioAt s.cfg.ioIndex.intpend).getLsbD (sourceBit s.cfg source).val
    && (s.ioAt s.cfg.ioIndex.intenb).getLsbD (sourceBit s.cfg source).val

/-- The 16-bit word a read of `a` finds in a buffer, where its page is a direct one (20_memory.md R96). -/
def State.peek16 (s : State) (a : Addr) : Option Word16 :=
  match s.mem.readEntry s.cfg (alignDown a) with
  | .memory buf off => some (s.mem.wordAt buf (off + pageOffset s.cfg (alignDown a)))
  | .handler _ => none

/-- The 32-bit value a read of `a` finds in buffers, where the pages of both its halves are direct ones (R97). -/
def State.peek32 (s : State) (a : Addr) : Option Word32 :=
  match s.peek16 (alignDown a), s.peek16 (alignDown a + 16#32) with
  | some first, some second => some (joinHalves s.cfg.word32Order first second)
  | _, _ => none

/-- The buffer and the offset of the two bytes a 16-bit write to `a` stores, where its page is a direct one (R98). -/
def State.storePlace (s : State) (a : Addr) : Option (Nat × Nat) :=
  match s.mem.writeEntry s.cfg (alignDown a) with
  | .memory buf off => some (buf, off + pageOffset s.cfg (alignDown a))
  | .handler _ => none

/-- A 16-bit word of memory that reads and writes reach in the same place (60_exceptions.md R287). -/
def State.ramWord (s : State) (a : Addr) : Prop :=
  ∃ buf off, s.mem.readEntry s.cfg (alignDown a) = .memory buf off ∧ s.mem.writeEntry s.cfg (alignDown a) = .memory buf off

/-- A 32-bit word of memory that reads and writes reach in the same places. -/
def State.ramLong (s : State) (a : Addr) : Prop := s.ramWord a ∧ s.ramWord (alignDown a + 16#32)

/-- Words are found in buffers from the aligned `a` up. -/
def State.wordsAt (s : State) (a : Addr) (ws : List Word16) : Prop :=
  ∀ j w, ws[j]? = some w → s.peek16 (alignDown a + 16#32 * BitVec.ofNat 32 j) = some w

/-- Where the operand words of the next instruction lie: past its opcode word, which is fetched at the aligned `pc`
(40_dispatch_loop.md R166, R167). -/
def State.operandAddr (s : State) : Addr := alignDown s.pc + BitVec.ofNat 32 s.cfg.fetchWidth

/-- A read of `a` reaches no mapped page: the open bus of slot 0 answers it (R101). -/
abbrev State.openRead (s : State) (a : Addr) : Prop :=
  s.mem.readEntry s.cfg (alignDown a) = .handler 0 ∧ (s.slot 0).rd = .openBus

/-- A write to `a` reaches no mapped page: the open bus of slot 0 discards it (R101). -/
abbrev State.openWrite (s : State) (a : Addr) : Prop :=
  s.mem.writeEntry s.cfg (alignDown a) = .handler 0 ∧ (s.slot 0).wr = .openBus

/-- A read of `a` reaches the I/O bank, served by slot `id` (R104). -/
abbrev State.bankRead (s : State) (id : Nat) (a : Addr) : Prop :=
  s.mem.readEntry s.cfg (alignDown a) = .handler id ∧ (s.slot id).rd = .ioBank

/-- A write to `a` reaches the I/O bank, served by slot `id` (R104). -/
abbrev State.bankWrite (s : State) (id : Nat) (a : Addr) : Prop :=
  s.mem.writeEntry s.cfg (alignDown a) = .handler id ∧ (s.slot id).wr = .ioBank

/-- Inside a run, before an iteration whose boundary has no interrupt to take (40_dispatch_loop.md R164). -/
abbrev State.quietIteration (s : State) : Prop :=
  s.inRun = true ∧ s.loopCondition = true ∧ s.nmiPending = false ∧ s.maskablePending = false

/-- The state whose fetch has noted a misaligned `pc` (40_dispatch_loop.md R166). -/
def State.noteFetch (s : State) : State := if s.pc &&& 0xF#32 ≠ 0#32 then s.emit (.misalignedFetch s.pc) else s

end Sys2Proof.Machine
end

