-- ==== Sys2Proof/Certificates/Slice0/Obligations.lean ====
section
/-! DEFINITION. The statements for the provers, from the numbered rules of spec/. An instruction's statement gives what
`exec` answers and, for the words of the instruction, what the generic dispatch under TH answers. A next state written
as an update of `s` says that everything it does not name is unchanged. -/

open Sys2Proof Sys2Proof.Machine

/-! Encoding and the step (spec/30_encoding.md, 40_dispatch_loop.md). -/

/-- R136 to R139: decoding an encoded well-formed instruction gives it back, with every operand at every value. -/
def Obligations.DecodeEncodeRoundTrip : Prop :=
  ∀ (hs : HandlerSet) (ord : Word32Order) (i : Instr) (rest : List Byte), i.wellFormed hs = true →
    decode hs ord (encodeBytes ord i ++ rest) = .ok i rest

/-- R136 to R139: each bytes that decode are the encoding of what they decode to, which is well-formed. -/
def Obligations.EncodeDecodeRoundTrip : Prop :=
  ∀ (hs : HandlerSet) (ord : Word32Order) (bytes : List Byte) (i : Instr) (rest : List Byte),
    decode hs ord bytes = .ok i rest → i.wellFormed hs = true ∧ bytes = encodeBytes ord i ++ rest

/-- R134, R135: no word is illegal to the loop, so decoding stops only on a missing opcode or operand word. That
bytes which run out are refused is the model's own. -/
def Obligations.DecodeRefusesOnlyMissingWords : Prop :=
  ∀ (hs : HandlerSet) (ord : Word32Order) (bytes : List Byte),
    (∃ r, decode hs ord bytes = .refused r) ↔
      (bytes.length < 2 ∨ ∃ hi lo rest, bytes = hi :: lo :: rest ∧ rest.length < 2 * operandWords hs (hi ++ lo))

/-- R139, R103: a few words of the opcode map, byte by byte. -/
def Obligations.ThWordsDecode : Prop :=
  decode .th .lowFirst [0x00, 0x0A] = .ok (.nop 10) []
  ∧ decode .th .lowFirst [0x00, 0x1F, 0x80, 0x00, 0x12, 0x34] = .ok (.movi 15 0x12348000#32) []
  ∧ decode .th .highFirst [0x00, 0x1F, 0x80, 0x00, 0x12, 0x34] = .ok (.movi 15 0x80001234#32) []
  ∧ decode .th .lowFirst [0x00, 0x21, 0xFF, 0xFE, 0x55] = .ok (.addi 1 0xFFFE#16) [0x55]
  ∧ decode .th .lowFirst [0x00, 0x30, 0xFF, 0xFC] = .ok (.dsj 0 0xFFFC#16) []
  ∧ decode .th .lowFirst [0x00, 0x62, 0x01, 0x10, 0xC0, 0x00] = .ok (.stw 2 0xC0000110#32) []
  ∧ decode .th .lowFirst [0x00, 0xA0] = .ok (.reti 0) []
  ∧ decode .th .lowFirst [0xFF, 0xFF] = .ok (.dispatch 0xFFFF#16) []

/-- R164, R166, R167, R169: inside a run, with no interrupt to take, a step runs the instruction whose opcode word lies
at the aligned `pc` and whose operand words lie past it (`FETCH_WIDTH` bits on: 16, so that they follow it), with `pc`
moved past all of them and a misaligned `pc` noted in the event history. Reading the operand words before the meaning
runs is the model's choice (log 17). -/
def Obligations.StepRunsDecodedInstruction : Prop :=
  ∀ (s : State) (w : Word16) (ws : List Word16) (i : Instr), s.quietIteration →
    s.peek16 s.pc = some w → s.wordsAt s.operandAddr ws →
    decode s.cfg.handlers s.cfg.word32Order (layWords (w :: ws)) = .ok i [] →
    step s = exec i (s.noteFetch.setPc (s.operandAddr + 16#32 * BitVec.ofNat 32 ws.length))

/-- R164, R165, R174: an iteration first services an interrupt, and whatever that leaves of the budget, the same
iteration goes on to run the instruction at the `pc` it left. Reading the operand words before the meaning runs is
the model's choice (log 17). -/
def Obligations.StepServicesInterruptsFirst : Prop :=
  ∀ (s t : State) (w : Word16) (ws : List Word16) (i : Instr), s.inRun = true → 0 < s.icounter → s.stopFlag = false →
    s.serviceInterrupts = .next t → t.peek16 t.pc = some w → t.wordsAt t.operandAddr ws →
    decode t.cfg.handlers t.cfg.word32Order (layWords (w :: ws)) = .ok i [] →
    step s = exec i (t.noteFetch.setPc (t.operandAddr + 16#32 * BitVec.ofNat 32 ws.length))

/-! The instructions of TH (spec/45_test_handlers.md). -/

/-- R230. -/
def Obligations.NopResult : Prop :=
  ∀ (s : State) (n : RegNo),
    exec (.nop n) s = .next { s with icounter := s.icounter - 1 }
    ∧ (s.cfg.handlers = .th → exec (.dispatch (0x000#12 ++ n)) s = .next { s with icounter := s.icounter - 1 })

/-- R231. -/
def Obligations.MoviResult : Prop :=
  ∀ (s : State) (n : RegNo) (imm : Word32),
    exec (.movi n imm) s = .next { s.setA n imm with icounter := s.icounter - 3 }
    ∧ (s.cfg.handlers = .th → exec (.dispatch (0x001#12 ++ n)) s =
        .next { (s.memRead32 s.pc).2.setA n (s.memRead32 s.pc).1 with
          pc := s.pc + 32#32, icounter := s.icounter - 3 })
    ∧ s.OnlyBusEffects (s.memRead32 s.pc).2

/-- R232. -/
def Obligations.AddiResult : Prop :=
  ∀ (s : State) (n : RegNo) (imm : Word16),
    exec (.addi n imm) s = .next { s.setA n (s.a n + imm.signExtend 32) with icounter := s.icounter - 2 }
    ∧ (s.cfg.handlers = .th → exec (.dispatch (0x002#12 ++ n)) s =
        .next { (s.memRead16 s.pc).2.setA n (s.a n + (s.memRead16 s.pc).1.signExtend 32) with
          pc := s.pc + 16#32, icounter := s.icounter - 2 })
    ∧ s.OnlyBusEffects (s.memRead16 s.pc).2

/-- R233. -/
def Obligations.DsjResult : Prop :=
  ∀ (s : State) (n : RegNo) (disp : Word16),
    exec (.dsj n disp) s = (
      if s.a n - 1#32 ≠ 0#32 then
        .next { s.setA n (s.a n - 1#32) with
          pc := s.pc + disp.signExtend 32 * 16#32, icounter := s.icounter - 3 }
      else .next { s.setA n 0#32 with icounter := s.icounter - 2 })
    ∧ (s.cfg.handlers = .th → exec (.dispatch (0x003#12 ++ n)) s = (
        if s.a n - 1#32 ≠ 0#32 then
          .next { (s.memRead16 s.pc).2.setA n (s.a n - 1#32) with
            pc := s.pc + 16#32 + (s.memRead16 s.pc).1.signExtend 32 * 16#32, icounter := s.icounter - 3 }
        else
          .next { (s.memRead16 s.pc).2.setA n 0#32 with pc := s.pc + 16#32, icounter := s.icounter - 2 }))
    ∧ s.OnlyBusEffects (s.memRead16 s.pc).2

/-- R234, in the words of its pseudocode; what the write does is said by the statements on stores. -/
def Obligations.StlResult : Prop :=
  ∀ (s : State) (n : RegNo) (addr : Addr),
    exec (.stl n addr) s =
      andThen (s.memWrite32 addr (s.a n)) (fun t => .next { t with icounter := t.icounter - 4 })
    ∧ (s.cfg.handlers = .th → exec (.dispatch (0x004#12 ++ n)) s =
        andThen (State.memWrite32 { (s.memRead32 s.pc).2 with pc := s.pc + 32#32 } (s.memRead32 s.pc).1 (s.a n))
          (fun t => .next { t with icounter := t.icounter - 4 }))
    ∧ s.OnlyBusEffects (s.memRead32 s.pc).2

/-- R235. -/
def Obligations.LdlResult : Prop :=
  ∀ (s : State) (n : RegNo) (addr : Addr),
    exec (.ldl n addr) s =
      .next { (s.memRead32 addr).2.setA n (s.memRead32 addr).1 with icounter := s.icounter - 4 }
    ∧ s.OnlyBusEffects (s.memRead32 addr).2
    ∧ (s.cfg.handlers = .th →
        let t : State := { (s.memRead32 s.pc).2 with pc := s.pc + 32#32 }
        let r := t.memRead32 (s.memRead32 s.pc).1
        exec (.dispatch (0x005#12 ++ n)) s = .next { r.2.setA n r.1 with icounter := s.icounter - 4 }
        ∧ t.OnlyBusEffects r.2)

/-- R236, in the words of its pseudocode; what the write does is said by the statements on stores. -/
def Obligations.StwResult : Prop :=
  ∀ (s : State) (n : RegNo) (addr : Addr),
    exec (.stw n addr) s =
      andThen (s.memWrite16 addr ((s.a n).extractLsb' 0 16)) (fun t => .next { t with icounter := t.icounter - 3 })
    ∧ (s.cfg.handlers = .th → exec (.dispatch (0x006#12 ++ n)) s =
        andThen (State.memWrite16 { (s.memRead32 s.pc).2 with pc := s.pc + 32#32 } (s.memRead32 s.pc).1
            ((s.a n).extractLsb' 0 16))
          (fun t => .next { t with icounter := t.icounter - 3 }))
    ∧ s.OnlyBusEffects (s.memRead32 s.pc).2

/-- R237. -/
def Obligations.LdwResult : Prop :=
  ∀ (s : State) (n : RegNo) (addr : Addr),
    exec (.ldw n addr) s =
      .next { (s.memRead16 addr).2.setA n (0#16 ++ (s.memRead16 addr).1) with icounter := s.icounter - 3 }
    ∧ s.OnlyBusEffects (s.memRead16 addr).2
    ∧ (s.cfg.handlers = .th →
        let t : State := { (s.memRead32 s.pc).2 with pc := s.pc + 32#32 }
        let r := t.memRead16 (s.memRead32 s.pc).1
        exec (.dispatch (0x007#12 ++ n)) s = .next { r.2.setA n (0#16 ++ r.1) with icounter := s.icounter - 3 }
        ∧ t.OnlyBusEffects r.2)

/-- R238, R239: IE alone is written. -/
def Obligations.EintDintResult : Prop :=
  ∀ (s : State) (n : RegNo),
    (∃ v : Word32, exec (.eint n) s = .next { s with st := v, icounter := s.icounter - 1 }
      ∧ (s.cfg.handlers = .th → exec (.dispatch (0x008#12 ++ n)) s =
          .next { s with st := v, icounter := s.icounter - 1 })
      ∧ ∀ j, j < 32 → v.getLsbD j = if j = s.cfg.ieBit.val then true else s.st.getLsbD j)
    ∧ (∃ v : Word32, exec (.dint n) s = .next { s with st := v, icounter := s.icounter - 1 }
      ∧ (s.cfg.handlers = .th → exec (.dispatch (0x009#12 ++ n)) s =
          .next { s with st := v, icounter := s.icounter - 1 })
      ∧ ∀ j, j < 32 → v.getLsbD j = if j = s.cfg.ieBit.val then false else s.st.getLsbD j)

/-- R240, R286: the status is popped, then the `pc`. -/
def Obligations.RetiResult : Prop :=
  ∀ (s : State) (n : RegNo),
    let r := s.memRead32 s.sp
    let t : State := { r.2.setSp (s.sp + 32#32) with st := r.1 }
    let q := t.memRead32 (s.sp + 32#32)
    exec (.reti n) s = .next { q.2.setSp (s.sp + 64#32) with pc := q.1, icounter := s.icounter - 8 }
    ∧ (s.cfg.handlers = .th → exec (.dispatch (0x00A#12 ++ n)) s = exec (.reti n) s)
    ∧ s.OnlyBusEffects r.2 ∧ t.OnlyBusEffects q.2

/-- R241. -/
def Obligations.JmpaResult : Prop :=
  ∀ (s : State) (n : RegNo) (addr : Addr),
    exec (.jmpa n addr) s = .next { s with pc := addr, icounter := s.icounter - 3 }
    ∧ (s.cfg.handlers = .th → exec (.dispatch (0x00B#12 ++ n)) s =
        .next { (s.memRead32 s.pc).2 with pc := (s.memRead32 s.pc).1, icounter := s.icounter - 3 })
    ∧ s.OnlyBusEffects (s.memRead32 s.pc).2

/-- R242, R172. -/
def Obligations.TstopResult : Prop :=
  ∀ (s : State) (n : RegNo),
    exec (.tstop n) s = .next { s with stopFlag := true, icounter := s.icounter - 1 }
    ∧ (s.cfg.handlers = .th → exec (.dispatch (0x00C#12 ++ n)) s =
        .next { s with stopFlag := true, icounter := s.icounter - 1 })

/-- R101, R140, R164, R166, R243: TH refuses a word of an unassigned index, and so a fetch from an unmapped page. That a
refusal carries the state it arises in, here the one after the fetch, is deduced (log 23), and when the call of the open
bus is recorded is too (log 15). -/
def Obligations.UnassignedWordRefused : Prop :=
  (∀ (s : State) (w : Word16), s.cfg.handlers = .th → 0x00D0 ≤ w.toNat →
    exec (.dispatch w) s = .refused (.unassignedTestOpcode w s))
  ∧ (∀ s : State, s.cfg.handlers = .th → s.quietIteration → s.openRead s.pc →
    step s = .refused (.unassignedTestOpcode 0xFFFF#16 { s with
      pc := s.operandAddr
      events := s.noteFetch.events ++ [.handlerRead 0 (alignDown s.pc) .w16 0xFFFF#16] }))

/-- R131, R169, R244: under TH the generic dispatch of an assigned word runs the instruction its words decode to,
with `pc` moved past its operand words. Two constructors for one word are the model's choice (log 5). -/
def Obligations.DispatchRunsTheInstruction : Prop :=
  ∀ (s : State) (w : Word16) (ws : List Word16) (i : Instr), s.cfg.handlers = .th → w.toNat < 0x00D0 →
    s.wordsAt s.pc ws → decode .th s.cfg.word32Order (layWords (w :: ws)) = .ok i [] →
    exec (.dispatch w) s = exec i (s.setPc (s.pc + 16#32 * BitVec.ofNat 32 ws.length))

/-- R132 to R134, R168, R169, R176, R340: under a platform's table the handler of index `w >> DISPATCH_SHIFT` runs with
the whole word and the state it finds; its cost is charged after its effects; its call of `run` is refused. Whatever its
program is, it keeps the total, the budget at entry, the run flag, the timer and the configuration; and one that makes
no bus access, no call of `stop` and no entry of its own changes the budget by its cost alone, and of the external
lines, the stop flag, the memory and the I/O bank nothing but the WV bit. With an interrupt-output callback registered,
that callback may change some of them. What a handler's program may hold is the model's choice (log 4); that a refusal
carries the state it arises in is deduced (log 23). -/
def Obligations.HandlerContract : Prop :=
  (∀ (s : State) (w : Word16), s.cfg.handlers = .platform →
    exec (.dispatch w) s =
      runHandler (Config.handlerProgram (w.toNat / 2 ^ s.cfg.dispatchShift.val) w s.draws) { s with draws := s.draws + 1 })
  ∧ (∀ (s : State) (cost : Nat), runHandler (.ret cost) s = .next { s with icounter := s.icounter - cost })
  ∧ (∀ (s : State) (k : State → HandlerProg), runHandler (.read k) s = runHandler (k s) s)
  ∧ (∀ (s : State) (a : Addr) (v : Word16) (cost : Nat), runHandler (.memWrite16 a v (.ret cost)) s =
      andThen (s.memWrite16 a v) (fun t => .next { t with icounter := t.icounter - cost }))
  ∧ (∀ (s : State) (budget : Int), runHandler (.run budget) s = .refused (.reentrantRun s))
  ∧ (∀ (p : HandlerProg) (s t : State), s.intoutCb = none → runHandler p s = .next t → s.OnlyHandlerEffects t)
  ∧ (∀ (p : HandlerProg) (s t : State), directHandler p → runHandler p s = .next t →
      s.OnlyHandlerEffects t ∧ (∃ cost : Nat, t.icounter = s.icounter - cost)
      ∧ t.stopFlag = s.stopFlag ∧ t.line0 = s.line0 ∧ t.line1 = s.line1 ∧ t.mem = s.mem ∧ t.events = s.events
      ∧ t.pixelshift = s.pixelshift ∧ t.ropSel = s.ropSel
      ∧ (∀ i, i ≠ s.cfg.ioIndex.intpend → t.ioAt i = s.ioAt i)
      ∧ ∀ j, j < 16 → j ≠ s.cfg.bitWv.val →
        (t.ioAt s.cfg.ioIndex.intpend).getLsbD j = (s.ioAt s.cfg.ioIndex.intpend).getLsbD j)

/-! Stores and loads (spec/20_memory.md). -/

/-- R98, R100, R103, R234, R236: a store to direct pages completes, stores the bytes of the value high byte first at the
places its address gives, the half of the lower address first, and changes no other byte and nothing else but the
cycle budget. -/
def Obligations.StoresToMemory : Prop :=
  ∀ (s : State) (n : RegNo) (addr : Addr), s.cfg.wf → s.mem.wf s.cfg →
    (∀ p, s.storePlace addr = some p → ∃ m : Memory,
      exec (.stw n addr) s = .next { s with mem := m, icounter := s.icounter - 3 }
      ∧ m.rmap = s.mem.rmap ∧ m.wmap = s.mem.wmap ∧ (∀ b, m.bufLen b = s.mem.bufLen b)
      ∧ m.byteAt p.1 p.2 = (s.a n).extractLsb' 8 8 ∧ m.byteAt p.1 (p.2 + 1) = (s.a n).extractLsb' 0 8
      ∧ ∀ b o, ¬(b = p.1 ∧ (o = p.2 ∨ o = p.2 + 1)) → m.byteAt b o = s.mem.byteAt b o)
    ∧ (∀ p q, s.storePlace addr = some p → s.storePlace (alignDown addr + 16#32) = some q → ∃ m : Memory,
      exec (.stl n addr) s = .next { s with mem := m, icounter := s.icounter - 4 }
      ∧ m.rmap = s.mem.rmap ∧ m.wmap = s.mem.wmap ∧ (∀ b, m.bufLen b = s.mem.bufLen b)
      ∧ m.wordAt p.1 p.2 = firstHalf s.cfg.word32Order (s.a n)
      ∧ m.wordAt q.1 q.2 = secondHalf s.cfg.word32Order (s.a n)
      ∧ ∀ b o, ¬(b = p.1 ∧ (o = p.2 ∨ o = p.2 + 1)) → ¬(b = q.1 ∧ (o = q.2 ∨ o = q.2 + 1)) →
        m.byteAt b o = s.mem.byteAt b o)

/-- R101, R102, R234, R236: a store to a page that no write is mapped on completes and is discarded; only the
handler calls are recorded. When a call is recorded is the model's choice (log 15). -/
def Obligations.StoresToOpenBus : Prop :=
  ∀ (s : State) (n : RegNo) (addr : Addr), s.openWrite addr →
    exec (.stw n addr) s = .next { s with
      events := s.events ++ [.handlerWrite 0 (alignDown addr) ((s.a n).extractLsb' 0 16)],
      icounter := s.icounter - 3 }
    ∧ (s.openWrite (alignDown addr + 16#32) → exec (.stl n addr) s = .next { s with
        events := s.events ++ [.handlerWrite 0 (alignDown addr) (firstHalf s.cfg.word32Order (s.a n)),
          .handlerWrite 0 (alignDown addr + 16#32) (secondHalf s.cfg.word32Order (s.a n))],
        icounter := s.icounter - 4 })

/-- R92, R105, R110, R234, R236: with no interrupt-output callback, a store completes whatever its pages are, memory,
the I/O bank or the platform's handlers, and touches nothing but what a bus write can touch. -/
def Obligations.StoresComplete : Prop :=
  ∀ (s : State) (n : RegNo) (addr : Addr), s.intoutCb = none →
    (∃ t, exec (.stw n addr) s = .next t ∧ s.OnlyStoreEffects t)
    ∧ (∃ t, exec (.stl n addr) s = .next t ∧ s.OnlyStoreEffects t)

/-- R105, R234, R236, R310, R313, R319, R373: a store to the I/O bank is recorded and writes the register with its side
effects; STL writes two, the half of the lower address first, the second in the state the first left, at the next
index. An STW that writes the halt bit to HSTCTLH inside a run leaves the budget at minus its own cost. When a call is
recorded is the model's choice (log 15). -/
def Obligations.StoresToIoBank : Prop :=
  ∀ (s : State) (n : RegNo) (addr : Addr) (id id' : Nat), s.bankWrite id addr →
    let a := alignDown addr
    let v := (s.a n).extractLsb' 0 16
    let call := fun (t : State) (id : Nat) (a : Addr) (v : Word16) =>
      ({ t with events := t.events ++ [.handlerWrite id a v] } : State)
    let first := firstHalf s.cfg.word32Order (s.a n)
    let second := secondHalf s.cfg.word32Order (s.a n)
    exec (.stw n addr) s =
      andThen ((call s id a v).writeRegister refuseRun a v) (fun u => .next { u with icounter := u.icounter - 3 })
    ∧ (s.cfg.wf → bankIndex s.cfg addr = s.cfg.ioIndex.hstctlh → v.getLsbD s.cfg.hstHltBit.val = true → s.inRun = true →
        exec (.stw n addr) s = .next { (call s id a v).setIo s.cfg.ioIndex.hstctlh v with icounter := -3 })
    ∧ (s.bankWrite id' (a + 16#32) → s.intoutCb = none → ∃ u w : State,
        (call s id a first).writeRegister refuseRun a first = .next u
        ∧ (call u id' (a + 16#32) second).writeRegister refuseRun (a + 16#32) second = .next w
        ∧ exec (.stl n addr) s = .next { w with icounter := w.icounter - 4 })
    ∧ (bankIndex s.cfg (a + 16#32)).val = ((bankIndex s.cfg a).val + 1) % s.cfg.ioregCount

/-- R92, R93: a function of the platform's is called with the address, the width and the reported total; its value is
cut to the width and its call is recorded; its actions take effect in order, after the access, so that the second half
of a 32-bit access finds what those of the first left. The counter of draws, and when a call is recorded, are the
model's (log 6, 15). -/
def Obligations.BusHandlerActions : Prop :=
  ∀ (s : State) (a : Addr) (id fn : Nat),
    (s.mem.readEntry s.cfg (alignDown a) = .handler id → (s.slot id).rd = .platform fn →
      let r := Config.busRead fn (alignDown a) .w16 s.reported s.draws
      s.memRead16 a = (r.1, r.2.foldl State.applyAction { s with
        draws := s.draws + 1, events := s.events ++ [.handlerRead id (alignDown a) .w16 r.1] }))
    ∧ (s.mem.readEntry s.cfg a = .handler id → (s.slot id).rd = .platform fn →
      let r := Config.busRead fn a .w8 s.reported s.draws
      s.memRead8 a = (r.1.extractLsb' 0 8, r.2.foldl State.applyAction { s with
        draws := s.draws + 1, events := s.events ++ [.handlerRead id a .w8 (r.1 &&& 0x00FF#16)] }))
    ∧ (∀ v : Word16, s.mem.writeEntry s.cfg (alignDown a) = .handler id → (s.slot id).wr = .platform fn →
      s.memWrite16 a v = .next ((Config.busWrite fn (alignDown a) v s.reported s.draws).foldl State.applyAction { s with
        draws := s.draws + 1, events := s.events ++ [.handlerWrite id (alignDown a) v] }))
    ∧ s.memRead32 a = (joinHalves s.cfg.word32Order (s.memRead16 a).1
        ((s.memRead16 a).2.memRead16 (alignDown a + 16#32)).1, ((s.memRead16 a).2.memRead16 (alignDown a + 16#32)).2)
    ∧ (∀ buf start stop dir, s.applyAction (.mapMemory buf start stop dir) = (s.mapMemory buf start stop dir).2)
    ∧ (∀ k start stop dir, s.applyAction (.mapHandler k start stop dir) = (s.mapHandler k start stop dir).2)
    ∧ (∀ line level, s.applyAction (.setIrqLine line level) = (s.setIrqLine line level).2)
    ∧ s.applyAction .stop = { s with stopFlag := true }

/-- R96, R97, R101, R235, R237: a load from direct pages gets what lies there and changes no byte; a load from pages
that no read is mapped on gets all ones, at each width. When a call is recorded is the model's choice (log 15). -/
def Obligations.LoadsFromMemoryAndOpenBus : Prop :=
  ∀ (s : State) (n : RegNo) (addr : Addr),
    (∀ v, s.peek32 addr = some v → exec (.ldl n addr) s = .next { s.setA n v with icounter := s.icounter - 4 })
    ∧ (∀ v, s.peek16 addr = some v →
        exec (.ldw n addr) s = .next { s.setA n (0#16 ++ v) with icounter := s.icounter - 3 })
    ∧ (s.openRead addr →
        exec (.ldw n addr) s = .next { s.setA n 0x0000FFFF#32 with
          events := s.events ++ [.handlerRead 0 (alignDown addr) .w16 0xFFFF#16], icounter := s.icounter - 3 })
    ∧ (s.openRead addr → s.openRead (alignDown addr + 16#32) →
        exec (.ldl n addr) s = .next { s.setA n 0xFFFFFFFF#32 with
          events := s.events ++ [.handlerRead 0 (alignDown addr) .w16 0xFFFF#16,
            .handlerRead 0 (alignDown addr + 16#32) .w16 0xFFFF#16],
          icounter := s.icounter - 4 })
    ∧ (s.mem.readEntry s.cfg addr = .handler 0 → (s.slot 0).rd = .openBus →
        s.memRead8 addr = (0xFF#8, { s with events := s.events ++ [.handlerRead 0 addr .w8 0x00FF#16] }))

/-- R105, R235, R237, R316, R319: a load from the I/O bank reads one register, or two, the lower index at the lower
address, whose half `WORD32_ORDER` says; an 8-bit read gets the byte that A[3] picks. When a call is recorded is the
model's choice (log 15). -/
def Obligations.LoadsFromIoBank : Prop :=
  ∀ (s : State) (n : RegNo) (addr : Addr) (id id' : Nat),
    let a := alignDown addr
    let first := s.readRegister a
    let second := s.readRegister (a + 16#32)
    let byte := if addr.getLsbD 3 = true then first.extractLsb' 0 8 else first.extractLsb' 8 8
    (s.bankRead id addr → exec (.ldw n addr) s = .next { s.setA n (0#16 ++ first) with
      events := s.events ++ [.handlerRead id a .w16 first], icounter := s.icounter - 3 })
    ∧ (s.bankRead id addr → s.bankRead id' (a + 16#32) →
        exec (.ldl n addr) s = .next { s.setA n (match s.cfg.word32Order with
            | .lowFirst => second ++ first
            | .highFirst => first ++ second) with
          events := s.events ++ [.handlerRead id a .w16 first, .handlerRead id' (a + 16#32) .w16 second],
          icounter := s.icounter - 4 })
    ∧ (s.mem.readEntry s.cfg addr = .handler id → (s.slot id).rd = .ioBank →
        s.memRead8 addr = (byte, { s with events := s.events ++ [.handlerRead id addr .w8 (0#8 ++ byte)] }))

/-- R96 to R98, R100, R111: a read after a write to the same memory gives the value written. R86, R346: a byte that the
platform, or another instance that shares the buffer, stores between runs is there, and every other byte is as before;
its place in the queue of calls is the model's choice (log 13, 22). -/
def Obligations.ReadAfterWrite : Prop :=
  ∀ (s : State) (a : Addr), s.cfg.wf → s.mem.wf s.cfg →
    (∀ v : Word16, s.ramWord a → ∃ t, s.memWrite16 a v = .next t ∧ t.memRead16 a = (v, t))
    ∧ (∀ v : Word32, s.ramLong a → ∃ t, s.memWrite32 a v = .next t ∧ t.memRead32 a = (v, t))
    ∧ (∀ (buf o : Nat) (v : Byte) (rest : List HostOp), s.inRun = false → s.inbox = .writeBuffer buf o v :: rest →
        o < s.mem.bufLen buf → ∃ m : Memory,
        step s = .next { s with mem := m, inbox := rest, results := s.results ++ [.unit] }
        ∧ m.rmap = s.mem.rmap ∧ m.wmap = s.mem.wmap ∧ (∀ b, m.bufLen b = s.mem.bufLen b)
        ∧ ∀ b k, m.byteAt b k = if b = buf ∧ k = o then v else s.mem.byteAt b k)

/-- R94, R95, R103: the byte reads of a word of memory give its high byte at the even byte address and its low byte at
the odd one, whatever the low three address bits are. -/
def Obligations.ByteOrder : Prop :=
  ∀ (s : State) (a : Addr) (v : Word16) (j : Nat), s.cfg.wf → s.peek16 a = some v → j < 16 →
    s.memRead8 (alignDown a + BitVec.ofNat 32 j) = (if j < 8 then v.extractLsb' 8 8 else v.extractLsb' 0 8, s)

/-- R88 to R91: when the map operations and the registration of a bus handler succeed, and what each page table and
each handler slot then has. -/
def Obligations.MapOperations : Prop :=
  ∀ (s : State) (start stop dir : Nat), s.cfg.wf → s.mem.wf s.cfg →
    let c := s.cfg
    let range := start % c.pageBytes = 0 ∧ stop % c.pageBytes = c.pageBytes - 1 ∧ start ≤ stop ∧ stop < 2 ^ 29 ∧ dir < 4
    let inside := fun (a : Addr) => start ≤ byteAddr a ∧ byteAddr a ≤ stop
    (∀ buf, let r := s.mapMemory buf start stop dir
      (r.1 = true ↔ range ∧ stop + 1 ≤ s.mem.bufLen buf + start)
      ∧ (r.1 = false → r.2 = s)
      ∧ (r.1 = true → r.2 = { s with mem := r.2.mem } ∧ r.2.mem.bufs = s.mem.bufs ∧ ∀ a : Addr,
          (dir.testBit 0 ∧ inside a →
            ∃ off, r.2.mem.readEntry c a = .memory buf off ∧ off + pageOffset c a = byteAddr a - start)
          ∧ (¬(dir.testBit 0 ∧ inside a) → r.2.mem.readEntry c a = s.mem.readEntry c a)
          ∧ (dir.testBit 1 ∧ inside a →
            ∃ off, r.2.mem.writeEntry c a = .memory buf off ∧ off + pageOffset c a = byteAddr a - start)
          ∧ (¬(dir.testBit 1 ∧ inside a) → r.2.mem.writeEntry c a = s.mem.writeEntry c a)))
    ∧ (∀ id, let r := s.mapHandler id start stop dir
      (r.1 = true ↔ range ∧ id < s.cfg.maxHandlers)
      ∧ (r.1 = false → r.2 = s)
      ∧ (r.1 = true → r.2 = { s with mem := r.2.mem } ∧ r.2.mem.bufs = s.mem.bufs ∧ ∀ a : Addr,
          (r.2.mem.readEntry c a = if dir.testBit 0 ∧ inside a then .handler id else s.mem.readEntry c a)
          ∧ (r.2.mem.writeEntry c a = if dir.testBit 1 ∧ inside a then .handler id else s.mem.writeEntry c a)))
    ∧ (∀ id rd wr, s.ht.length = s.cfg.maxHandlers → let r := s.setHandler id rd wr
      (r.1 = true ↔ id ≠ 0 ∧ id < s.cfg.maxHandlers)
      ∧ (r.1 = false → r.2 = s)
      ∧ (r.1 = true → r.2 = { s with ht := r.2.ht } ∧ r.2.ht.length = s.ht.length
          ∧ ∀ j, r.2.slot j = if j = id then { rd := rd, wr := wr } else s.slot j))

/-- R30, R31: what a write through either view leaves in both. -/
def Obligations.RegisterViews : Prop :=
  ∀ (s : State) (n m : RegNo) (v : Word32),
    ((s.setA n v).a m = if m = n then v else s.a m)
    ∧ ((s.setB n v).b m = if m = n then v else s.b m)
    ∧ ((s.setA n v).b m = if n = 15 ∧ m = 15 then v else s.b m)
    ∧ ((s.setB n v).a m = if n = 15 ∧ m = 15 then v else s.a m)
    ∧ s.sp = s.a 15 ∧ s.sp = s.b 15

/-! Interrupts (spec/60_exceptions.md). -/

/-- R280, R283, R284: an entry whose stack and vector are on direct pages. The four halves go where the two decremented
stack pointers say, the `pc` first; the vector is read after the pushes. -/
def Obligations.EntryOnMemory : Prop :=
  ∀ (s : State) (source : IntSource) (vec : Addr) (p p' q q' : Nat × Nat) (m : Memory) (target : Addr),
    s.storePlace (s.sp - 32#32) = some p → s.storePlace (alignDown (s.sp - 32#32) + 16#32) = some p' →
    s.storePlace (s.sp - 64#32) = some q → s.storePlace (alignDown (s.sp - 64#32) + 16#32) = some q' →
    m = (((s.mem.setWord p.1 p.2 (firstHalf s.cfg.word32Order s.pc)).setWord p'.1 p'.2
      (secondHalf s.cfg.word32Order s.pc)).setWord q.1 q.2 (firstHalf s.cfg.word32Order s.st)).setWord q'.1 q'.2
      (secondHalf s.cfg.word32Order s.st) →
    State.peek32 { s with mem := m } vec = some target →
    s.take source vec = .next { s.setSp (s.sp - 64#32) with
      mem := m, st := s.cfg.stInit, pc := target, icounter := s.icounter - s.cfg.intLatency,
      events := s.events ++ [.interruptTaken source vec target] }

/-- R287: entry and return restore `pc`, `st` and SP bit for bit, if the stack words are on memory pages and keep their
values. -/
def Obligations.EntryReturnRoundTrip : Prop :=
  ∀ (s t u : State) (source : IntSource) (vec : Addr), s.cfg.wf → s.mem.wf s.cfg →
    s.ramLong (s.sp - 32#32) → s.ramLong (s.sp - 64#32) →
    s.peek16 vec ≠ none → s.peek16 (alignDown vec + 16#32) ≠ none →
    s.take source vec = .next t →
    u.sp = t.sp → u.peek32 t.sp = t.peek32 t.sp → u.peek32 (t.sp + 32#32) = t.peek32 (t.sp + 32#32) →
    u.returnFromInterrupt.pc = s.pc ∧ u.returnFromInterrupt.st = s.st ∧ u.returnFromInterrupt.sp = s.sp

/-- R281: whatever its accesses reach, an entry that completes leaves `st` at `ST_INIT`, so IE is 0. -/
def Obligations.EntryResetsStatus : Prop :=
  ∀ (s t : State) (source : IntSource) (vec : Addr), s.take source vec = .next t →
    t.st = s.cfg.stInit ∧ (s.cfg.wf → t.ie = false)

/-- R110, R271, R280, R285: with no interrupt-output callback, an entry completes whatever pages the stack and the vector
are on, moves SP down by 64 and no other register, and keeps the accounts and the configuration. -/
def Obligations.EntryCompletes : Prop :=
  ∀ (s : State) (source : IntSource) (vec : Addr), s.intoutCb = none →
    ∃ t, s.take source vec = .next t ∧ t.sp = s.sp - 64#32 ∧ (∀ i, i ≠ slotSp → t.xAt i = s.xAt i)
      ∧ t.shiftreg = s.shiftreg ∧ s.OnlyHandlerEffects t

/-- R275, R279: a requested NMI is taken whatever IE and INTENB say, with its request bit cleared first. -/
def Obligations.NmiTakenFirst : Prop :=
  ∀ s : State, (s.ioAt s.cfg.ioIndex.hstctlh).getLsbD s.cfg.hstNmiBit.val = true →
    ∃ v : Word16, s.serviceInterrupts = (s.setIo s.cfg.ioIndex.hstctlh v).take .nmi s.cfg.vecNmi
      ∧ ∀ j, j < 16 →
        v.getLsbD j = ((s.ioAt s.cfg.ioIndex.hstctlh).getLsbD j && decide (j ≠ s.cfg.hstNmiBit.val))

/-- R272, R275 to R277, R282: with no NMI and IE set, the highest pending enabled source is taken through its own vector,
and then its HOLD line, if it has one, is cleared with its pending bit. -/
def Obligations.HighestSourceTaken : Prop :=
  ∀ (s : State) (source : IntSource) (vector : Addr), s.cfg.wf → s.nmiPending = false → s.ie = true →
    (source, vector) ∈ [(.hi, s.cfg.vecHi), (.di, s.cfg.vecDi), (.wv, s.cfg.vecWv), (.int1, s.cfg.vecInt1),
      (.int2, s.cfg.vecInt2)] →
    s.wants source = true →
    (∀ h, h ∈ maskableSources.takeWhile (fun x => decide (x ≠ source)) → s.wants h = false) →
    s.serviceInterrupts = andThen (s.take source vector) (fun t => .next (
      if source = .int1 ∧ t.line0 = .hold then
        { t.setIo t.cfg.ioIndex.intpend (setBit16 (t.ioAt t.cfg.ioIndex.intpend) t.cfg.bitInt1 false) with line0 := .clear }
      else if source = .int2 ∧ t.line1 = .hold then
        { t.setIo t.cfg.ioIndex.intpend (setBit16 (t.ioAt t.cfg.ioIndex.intpend) t.cfg.bitInt2 false) with line1 := .clear }
      else t))

/-- R275, R276: with no NMI requested, and IE clear or no source both pending and enabled, nothing is taken. -/
def Obligations.NothingTakenWhileMasked : Prop :=
  ∀ s : State, s.nmiPending = false → (s.ie = false ∨ ∀ source ∈ maskableSources, s.wants source = false) →
    s.serviceInterrupts = .next s

/-- R286, R288: a return whose stack is on direct pages, and one whose stack is on pages that no read is mapped on. -/
def Obligations.ReturnByPage : Prop :=
  ∀ (s : State) (n : RegNo),
    (∀ st pc, s.peek32 s.sp = some st → s.peek32 (s.sp + 32#32) = some pc →
      exec (.reti n) s = .next { s.setSp (s.sp + 64#32) with st := st, pc := pc, icounter := s.icounter - 8 })
    ∧ (s.openRead s.sp → s.openRead (alignDown s.sp + 16#32) → s.openRead (s.sp + 32#32) →
      s.openRead (alignDown (s.sp + 32#32) + 16#32) →
      ∃ t, exec (.reti n) s = .next t ∧ t = { s.setSp (s.sp + 64#32) with
        st := 0xFFFFFFFF#32, pc := 0xFFFFFFFF#32, events := t.events, icounter := s.icounter - 8 })

/-! The I/O register bank (spec/60_exceptions.md R310 to R318). -/

/-- R310, R313: a register with no side effect stores the value raw, the reserved and the computed ones included; the
halt bit in a value written to HSTCTLH inside a run zeroes the budget, and the value is stored in any case. -/
def Obligations.RegisterWrite : Prop :=
  ∀ (s : State) (run : RunCall) (a : Addr) (v : Word16),
    let i := bankIndex s.cfg a
    (i ≠ s.cfg.ioIndex.psize → i ≠ s.cfg.ioIndex.control → i ≠ s.cfg.ioIndex.hstctlh → i ≠ s.cfg.ioIndex.hstctll →
      i ≠ s.cfg.ioIndex.intpend →
      s.writeRegister run a v = .next (s.setIo i v)
      ∧ ∀ j, (s.setIo i v).ioAt j = if j = i then v else s.ioAt j)
    ∧ (s.cfg.wf → i = s.cfg.ioIndex.hstctlh →
      s.writeRegister run a v = .next { s.setIo s.cfg.ioIndex.hstctlh v with
        icounter := if v.getLsbD s.cfg.hstHltBit.val = true ∧ s.inRun = true then 0 else s.icounter })

/-- R314, R207: a rising INTOUT emits its event and calls the callback, if there is one; then a rising INTIN makes the
host interrupt pending. -/
def Obligations.HstctllWrite : Prop :=
  ∀ (s : State) (run : RunCall) (a : Addr) (v : Word16), s.cfg.wf → bankIndex s.cfg a = s.cfg.ioIndex.hstctll →
    let old := s.ioAt s.cfg.ioIndex.hstctll
    let t := s.setIo s.cfg.ioIndex.hstctll v
    let u : State := { t with events := t.events ++ [.intOut] }
    let rises := fun (new : Word16) (bit : Fin 16) => !old.getLsbD bit.val && new.getLsbD bit.val
    let pend := fun (w : State) =>
      w.setIo w.cfg.ioIndex.intpend (setBit16 (w.ioAt w.cfg.ioIndex.intpend) w.cfg.bitHi true)
    let intin := fun (w : State) => if rises (w.ioAt w.cfg.ioIndex.hstctll) w.cfg.hstIntinBit then pend w else w
    (rises v s.cfg.hstIntoutBit = false → rises v s.cfg.hstIntinBit = false → s.writeRegister run a v = .next t)
    ∧ (rises v s.cfg.hstIntoutBit = false → rises v s.cfg.hstIntinBit = true → s.writeRegister run a v = .next (pend t))
    ∧ (rises v s.cfg.hstIntoutBit = true → s.intoutCb = none → rises v s.cfg.hstIntinBit = false →
        s.writeRegister run a v = .next u)
    ∧ (rises v s.cfg.hstIntoutBit = true → s.intoutCb = none → rises v s.cfg.hstIntinBit = true →
        s.writeRegister run a v = .next (pend u))
    ∧ (∀ cb, rises v s.cfg.hstIntoutBit = true → s.intoutCb = some cb →
        s.writeRegister run a v = andThen (callIntoutCb run cb u) (fun w => .next (intin w)))

/-- R315: a written 0 clears HI, DI or WV, and every other bit of INTPEND keeps its value. -/
def Obligations.IntpendWrite : Prop :=
  ∀ (s : State) (run : RunCall) (a : Addr) (v : Word16), s.cfg.wf → bankIndex s.cfg a = s.cfg.ioIndex.intpend →
    ∃ new : Word16, s.writeRegister run a v = .next (s.setIo s.cfg.ioIndex.intpend new)
      ∧ ∀ j, j < 16 → new.getLsbD j =
        if j = s.cfg.bitHi.val ∨ j = s.cfg.bitDi.val ∨ j = s.cfg.bitWv.val then
          (s.ioAt s.cfg.ioIndex.intpend).getLsbD j && v.getLsbD j
        else (s.ioAt s.cfg.ioIndex.intpend).getLsbD j

/-- R311, R312: the writes of CONTROL and PSIZE store the value and recompute their caches; for a PSIZE that is no
legal pixel size the cache is some value from 0 to 5, drawn. The counter of draws is the model's (log 9). -/
def Obligations.CacheWrites : Prop :=
  ∀ (s : State) (run : RunCall) (a : Addr) (v : Word16), s.cfg.wf →
    (bankIndex s.cfg a = s.cfg.ioIndex.control →
      s.writeRegister run a v = .next { s.setIo s.cfg.ioIndex.control v with ropSel := Config.ropSelect v })
    ∧ (bankIndex s.cfg a = s.cfg.ioIndex.psize →
      (∀ k : Fin 6, v = 1#16 <<< k.val →
        s.writeRegister run a v = .next { s.setIo s.cfg.ioIndex.psize v with pixelshift := k })
      ∧ ((∀ k : Fin 6, v ≠ 1#16 <<< k.val) → ∃ k : Fin 6,
        s.writeRegister run a v = .next { s.setIo s.cfg.ioIndex.psize v with pixelshift := k, draws := s.draws + 1 }))

/-- R49, R177: the reported total, inside a run and outside, and the call that returns it. R316 to R318: REFCNT and
HCOUNT read as computed from it, every other register as stored. A sum below 0, which is no total, is free (log 14); the
queue of calls and the list of answers are the model's (log 13). -/
def Obligations.ComputedReads : Prop :=
  ∀ s : State,
    let T := s.reported
    let sum : Int := s.totalCycles + (s.cyclesStart - s.icounter)
    (s.inRun = false → T = s.totalCycles)
    ∧ (s.inRun = true → 0 ≤ sum → (T : Int) = sum)
    ∧ (∀ rest, s.inRun = false → s.inbox = .totalCycles :: rest →
        step s = .next { s with inbox := rest, results := s.results ++ [.total T] })
    ∧ (∀ run k, runCollab run (.totalCycles k) s = runCollab run (k T) s)
    ∧ ∀ a : Addr, s.cfg.wf →
      let i := bankIndex s.cfg a
      (i ≠ s.cfg.ioIndex.hcount → i ≠ s.cfg.ioIndex.refcnt → s.readRegister a = s.ioAt i)
      ∧ (i = s.cfg.ioIndex.refcnt → (s.readRegister a).toNat = T / 16 % 2 ^ 16)
      ∧ (i = s.cfg.ioIndex.hcount → s.cfg.hcountFn = .standard →
          (s.readRegister a).toNat
            = (T % s.cfg.cpl) * ((s.ioAt s.cfg.ioIndex.htotal).toNat + 1) / s.cfg.cpl % 2 ^ 16
          ∧ (s.readRegister a).toNat ≤ (s.ioAt s.cfg.ioIndex.htotal).toNat)

/-! The timer and the scanline step (spec/60_exceptions.md R320 to R334). -/

/-- R320, R321: arming the timer, and checking it; the fault of a timer with no callback follows the event. That the
fault carries the state it arises in is deduced (log 23). -/
def Obligations.TimerArmAndCheck : Prop :=
  (∀ (s : State) (d : Int), s.timerArm d = { s with
    timerActive := true, timerCyc := d, timerStamp := s.reported,
    events := if s.timerActive then s.events ++ [.timerRearm s.timerCyc d] else s.events })
  ∧ ∀ (s : State) (run : RunCall) (e : Int),
    (s.timerActive = false → s.checkTimer run e = .next s)
    ∧ (s.timerActive = true → 0 < s.timerCyc - e → s.checkTimer run e = .next { s with timerCyc := s.timerCyc - e })
    ∧ (s.timerActive = true → s.timerCyc - e ≤ 0 → s.timerCb = none →
        s.checkTimer run e = .fault (.unwiredPeripheral { s with
          timerActive := false, timerCyc := 0, events := s.events ++ [.timerFired] }))
    ∧ (∀ cb, s.timerActive = true → s.timerCyc - e ≤ 0 → s.timerCb = some cb →
        s.checkTimer run e = callTimerCb run cb { s with
          timerActive := false, timerCyc := 0, events := s.events ++ [.timerFired] })

/-- R323: what each policy passes to the automatic check. -/
def Obligations.TimerAutoCheck : Prop :=
  ∀ (s : State) (run : RunCall) (budget : Int),
    (∀ point, s.cfg.timerPolicy = .sinceLastCheck →
      s.timerAutoCheck run point budget =
        State.checkTimer { s with timerStamp := s.reported } run ((s.reported : Int) - s.timerStamp))
    ∧ (s.cfg.timerPolicy = .budget → s.timerAutoCheck run .entry budget = s.checkTimer run budget)
    ∧ (s.cfg.timerPolicy = .budget → s.timerAutoCheck run .scanline budget = s.checkTimer run 0)

/-- R322, R327 to R329, R331 to R334: a scanline step makes the automatic timer check first, which an idle timer passes,
and goes on from the state `t` that it leaves, whatever its callback wrote there; with no render callback, `u` is the
state before the display address advance, whose amount is free (log 2). That a refusal carries the state it arises in is
deduced (log 23). -/
def Obligations.ScanlineStep : Prop :=
  ∀ (s : State) (run : RunCall) (line : Int),
    (∀ cb, line < 0 → s.generateScanline run line cb = .refused (.negativeLine s))
    ∧ (∀ cb r, 0 ≤ line → s.timerAutoCheck run .scanline 0 = .fault r → s.generateScanline run line cb = .fault r)
    ∧ (∀ cb r, 0 ≤ line → s.timerAutoCheck run .scanline 0 = .refused r → s.generateScanline run line cb = .refused r)
    ∧ (s.timerActive = false → s.timerAutoCheck run .scanline 0 = .next { s with
        timerStamp := match s.cfg.timerPolicy with
          | .sinceLastCheck => s.reported
          | .budget => s.timerStamp })
    ∧ ∀ t, 0 ≤ line → s.timerAutoCheck run .scanline 0 = .next t → t.cfg.wf → t.cfg.advanceWin = .standard →
      ∃ (u : State) (next : Nat),
        let m := t.cfg.ioIndex
        u = { t with io := u.io }
        ∧ u.ioAt m.vcount = BitVec.ofInt 16 line
        ∧ u.ioAt m.intpend = (
            if (t.ioAt m.dpyctl).getLsbD t.cfg.dpyEnvBit.val = true ∧ line = (t.ioAt m.dpyint).toNat then
              setBit16 (t.ioAt m.intpend) t.cfg.bitDi true
            else t.ioAt m.intpend)
        ∧ u.ioAt m.dpyadr = (if line = (t.ioAt m.vsblnk).toNat then t.ioAt m.dpystrt else t.ioAt m.dpyadr)
        ∧ (∀ i, i ≠ m.vcount → i ≠ m.intpend → i ≠ m.dpyadr → u.ioAt i = t.ioAt i)
        ∧ (next : Int) = (if ((t.ioAt m.vtotal).toNat : Int) ≤ line + 1 then 0 else line + 1)
        ∧ s.generateScanline run line none = .next (next,
            if (t.ioAt m.veblnk).toNat ≤ line ∧ line < (t.ioAt m.vsblnk).toNat - 1 then
              u.setIo m.dpyadr (Config.dpyadrStep u.io)
            else u)

/-- R330, R331: the render callback is called, with the display registers as the step then has them, for a line of the
render window, and only for one; `t` is what the timer check leaves. -/
def Obligations.RenderCall : Prop :=
  ∀ (s t : State) (run : RunCall) (line : Int) (cb : Nat), 0 ≤ line → s.timerAutoCheck run .scanline 0 = .next t →
    t.cfg.wf → t.cfg.renderWin = .standard →
    let m := t.cfg.ioIndex
    let u := t.beginLine line
    let params : DisplayParams := {
      dpyadr := if line = (t.ioAt m.vsblnk).toNat then t.ioAt m.dpystrt else t.ioAt m.dpyadr
      heblnk := t.ioAt m.heblnk
      hsblnk := t.ioAt m.hsblnk
      htotal := t.ioAt m.htotal }
    ((t.ioAt m.veblnk).toNat ≤ line ∧ line < (t.ioAt m.vsblnk).toNat →
      s.generateScanline run line (some cb) =
        andThen (callRenderCb run cb line params { u with events := u.events ++ [.render line params] })
          (fun v => .next ((v.advanceDisplayAddress line).nextLine line, v.advanceDisplayAddress line)))
    ∧ (¬((t.ioAt m.veblnk).toNat ≤ line ∧ line < (t.ioAt m.vsblnk).toNat) →
      s.generateScanline run line (some cb) = s.generateScanline run line none)

/-! Runs, the host's calls, reset and the save state. -/

/-- R161 to R163: a halted core answers a run with 0 and changes nothing else; otherwise the run begins, and the
timer is checked inside it. The queue of calls and the list of answers are the model's (log 13). -/
def Obligations.RunEntry : Prop :=
  ∀ (s : State) (budget : Int) (rest : List HostOp), s.inRun = false → s.inbox = .run budget :: rest →
    ((s.ioAt s.cfg.ioIndex.hstctlh).getLsbD s.cfg.hstHltBit.val = true →
      step s = .next { s with inbox := rest, results := s.results ++ [.consumed 0] })
    ∧ ((s.ioAt s.cfg.ioIndex.hstctlh).getLsbD s.cfg.hstHltBit.val = false →
      step s = State.timerAutoCheck { s with
        inbox := rest, cyclesStart := budget, icounter := budget, stopFlag := false, inRun := true } refuseRun .entry budget)

/-- R164, R170, R49: at a boundary with the budget used up or a stop asked for, the run ends, answers what it
consumed and adds it to the total; the reported total does not move. A sum below 0, which is no total, is free (log 14);
the list of answers is the model's (log 13). -/
def Obligations.RunExit : Prop :=
  ∀ s : State, s.inRun = true → (s.icounter ≤ 0 ∨ s.stopFlag = true) →
    ∃ t : State, step s = .next t
      ∧ t = { s with
        totalCycles := t.totalCycles, inRun := false,
        results := s.results ++ [.consumed (s.cyclesStart - s.icounter)] }
      ∧ (0 ≤ (s.totalCycles : Int) + (s.cyclesStart - s.icounter) →
        (t.totalCycles : Int) = s.totalCycles + (s.cyclesStart - s.icounter))
      ∧ t.reported = s.reported

/-- R160, R176, R200, R208: the operations that may run a callback, called between runs, make the run that the callback
asks for; inside a run it is refused. A halted core answers such a run with 0 and nothing changed. Otherwise it does
what the steps of the same run do, from its entry to the state at which its loop ends, then the exit of the run, and the
callback goes on with the count: `v` is where the loop ends, after `n` steps. That the model follows at most the budget
and `extraIterations` more of them, and the queue of calls, are its choices (log 8, 13); that a refusal carries the state
it arises in is deduced (log 23). -/
def Obligations.CallbackRun : Prop :=
  (∀ (s : State) (budget : Int) (k : Int → CollabProg),
    runCollab refuseRun (.run budget k) s = .refused (.reentrantRun s)
    ∧ runCollab State.nestedRun (.run budget k) s =
      andThen (State.nestedRun budget s) (fun r => runCollab State.nestedRun (k r.1) r.2))
  ∧ (∀ (s : State) (rest : List HostOp), s.inRun = false →
    let q : State := { s with inbox := rest }
    (∀ e, s.inbox = .checkTimer e :: rest →
      step s = andThen (q.checkTimer State.nestedRun e) (fun t => .next { t with results := t.results ++ [.unit] }))
    ∧ (∀ a v, s.inbox = .writeRegister a v :: rest →
      step s = andThen (q.writeRegister State.nestedRun a v) (fun t => .next { t with results := t.results ++ [.unit] }))
    ∧ (∀ line cb, s.inbox = .generateScanline line cb :: rest →
      step s = andThen (q.generateScanline State.nestedRun line cb)
        (fun r => .next { r.2 with results := r.2.results ++ [.nextLine r.1] })))
  ∧ ∀ (s : State) (budget : Int),
    (s.inRun = true → State.nestedRun budget s = .refused (.reentrantRun s))
    ∧ (s.inRun = false → s.halted = true → State.nestedRun budget s = .next (0, s))
    ∧ (∀ (e v : State) (n : Nat), s.inRun = false → s.halted = false → s.inbox = [] →
      s.hostCall (.run budget) = .next e → n ≤ Config.extraIterations + budget.toNat → stepN n e = .next v →
      v.inRun = true → v.loopCondition = false →
      ∃ t : State, State.nestedRun budget s = .next (v.cyclesStart - v.icounter, t)
        ∧ step v = .next { t with results := t.results ++ [.consumed (v.cyclesStart - v.icounter)] })

/-- R203: the three levels of each external line, and the configuration error for any other line. The queue of calls
and the list of answers are the model's (log 13). -/
def Obligations.SetIrqLine : Prop :=
  ∀ (s : State) (line : Int) (level : LineLevel) (rest : List HostOp), s.inRun = false →
    s.inbox = .setIrqLine line level :: rest →
    let driven := fun (bit : Fin 16) =>
      s.setIo s.cfg.ioIndex.intpend (setBit16 (s.ioAt s.cfg.ioIndex.intpend) bit (decide (level ≠ .clear)))
    (line = 0 → step s = .next { driven s.cfg.bitInt1 with
      line0 := level, inbox := rest, results := s.results ++ [.ok] })
    ∧ (line = 1 → step s = .next { driven s.cfg.bitInt2 with
      line1 := level, inbox := rest, results := s.results ++ [.ok] })
    ∧ (line ≠ 0 → line ≠ 1 → step s = .next { s with inbox := rest, results := s.results ++ [.error] })

/-- R360, R361, R363: what a reset outside a run leaves, with the vector on direct pages and with the vector on pages that
no read is mapped on; inside a run it is refused, in the state it arises in (deduced, log 23). The pixel-size cache is
drawn, by the model's counter (log 9); when a call is recorded is the model's choice (log 15). -/
def Obligations.ResetResult : Prop :=
  ∀ s : State,
    let a := alignDown s.cfg.vecReset
    let left := fun (k : Fin 6) (target : Addr) (calls : List Event) =>
      ({ s with
        x := Vector.replicate 31 0#32
        pc := target
        st := s.cfg.stInit
        io := Vector.replicate 64 0#16
        pixelshift := k
        ropSel := Config.ropSelect 0#16
        icounter := 0
        cyclesStart := 0
        totalCycles := 0
        timerActive := false
        timerCyc := 0
        timerStamp := 0
        stopFlag := false
        line0 := .clear
        line1 := .clear
        shiftreg := List.replicate s.cfg.shiftregBytes 0#8
        events := s.events ++ calls
        draws := s.draws + 1 } : State)
    (s.inRun = true → s.resetOp = .refused (.reentrantReset s))
    ∧ (∀ target, s.inRun = false → s.peek32 s.cfg.vecReset = some target → ∃ k : Fin 6,
      s.resetOp = .next (left k target []))
    ∧ (s.inRun = false → s.openRead s.cfg.vecReset → s.openRead (a + 16#32) → ∃ k : Fin 6,
      s.resetOp = .next (left k 0xFFFFFFFF#32
        [.handlerRead 0 a .w16 0xFFFF#16, .handlerRead 0 (a + 16#32) .w16 0xFFFF#16]))

/-- R215 to R217: a state saved outside a run and loaded into an instance of the same configuration is equal in
every saved field and in both caches, the pixel-size cache where PSIZE is legal; nothing that is not saved is touched.
A source that does not match is answered with the error and changes nothing; inside a run both calls are refused. Items,
and what it is for a source to match, are the model's typed values (log 21); that a refusal carries the state it arises
in is deduced (log 23). -/
def Obligations.SaveLoadRoundTrip : Prop :=
  (∀ s t : State, s.Inv → s.inRun = false → t.inRun = false → t.cfg = s.cfg →
    ∃ (items : List SaveItem) (u : State), s.serializeOp = .next items ∧ t.deserializeOp items = .next (true, u)
      ∧ u.pc = s.pc ∧ u.st = s.st ∧ u.x = s.x
      ∧ (∀ i : Fin 64, i.val < s.cfg.ioregCount → u.ioAt i = s.ioAt i)
      ∧ u.icounter = s.icounter ∧ u.totalCycles = s.totalCycles ∧ u.cyclesStart = s.cyclesStart
      ∧ u.timerActive = s.timerActive ∧ u.timerCyc = s.timerCyc ∧ u.shiftreg = s.shiftreg
      ∧ u.stopFlag = s.stopFlag ∧ u.line0 = s.line0 ∧ u.line1 = s.line1 ∧ u.timerStamp = s.timerStamp
      ∧ u.ropSel = s.ropSel
      ∧ (pixelshiftOf (s.ioAt s.cfg.ioIndex.psize) ≠ none → u.pixelshift = s.pixelshift)
      ∧ u.cfg = t.cfg ∧ u.inRun = false ∧ u.mem = t.mem ∧ u.ht = t.ht ∧ u.timerCb = t.timerCb
      ∧ u.intoutCb = t.intoutCb ∧ u.events = t.events)
  ∧ (∀ (s : State) (src : List SaveItem), s.inRun = false →
    (src.map kindOf ≠ savedKinds s.cfg → s.deserializeOp src = .next (false, s))
    ∧ (src.map kindOf = savedKinds s.cfg → ∃ u, s.deserializeOp src = .next (true, u)))
  ∧ ∀ s : State, s.inRun = true → s.serializeOp = .refused (.serializeInRun s)
    ∧ ∀ src, s.deserializeOp src = .refused (.serializeInRun s)

/-! Invariants of every step. -/

/-- R59, R362, R363: the state after reset is a good one, with no pending bit, IE clear, not halted, `pc` all ones since
no page is mapped. TH and an empty memory there are the model's choices (log 3, 11). -/
def Obligations.ResetState : Prop :=
  State.reset.Inv ∧ State.reset.intpendSourcesOnly ∧ State.reset.pc = 0xFFFFFFFF#32
  ∧ State.reset.st = 0x00000010#32 ∧ State.reset.sp = 0#32
  ∧ State.reset.ie = false ∧ State.reset.halted = false ∧ State.reset.nmiPending = false
  ∧ (∀ i : Fin 64, State.reset.ioAt i = 0#16)

/-- A step from a good state leads to a good state: the canonical memory, reaching page entries, the reserved handler
slot 0 (R87), the sizes and the caches (R46) are kept by every instruction, interrupt, handler, callback and host
call. -/
def Obligations.StepKeepsInv : Prop :=
  ∀ s t : State, s.Inv → step s = .next t → t.Inv

/-- R57: no step writes the parameters. -/
def Obligations.StepKeepsParameters : Prop :=
  ∀ s t : State, step s = .next t → t.cfg = s.cfg

/-- R40: a step inside a run leaves the bits of INTPEND that belong to no source at 0. -/
def Obligations.RunKeepsIntpendSources : Prop :=
  ∀ s t : State, s.cfg.wf → s.inRun = true → s.intpendSourcesOnly → step s = .next t → t.intpendSourcesOnly

/-- R47, R48, R170: an iteration moves neither the total nor the budget at entry, does not end the run and makes no
host call; only the exit does. The queue of calls is the model's (log 13). -/
def Obligations.IterationKeepsAccounts : Prop :=
  ∀ s t : State, s.inRun = true → 0 < s.icounter → s.stopFlag = false → step s = .next t →
    t.totalCycles = s.totalCycles ∧ t.cyclesStart = s.cyclesStart ∧ t.inRun = true
    ∧ t.inbox = s.inbox ∧ t.results = s.results
end

