-- ==== Sys2Proof/Laws/Sparse.lean ====
section
/-! SUPPORT. Sparse tables: reading after storing, and the canonical form. -/

namespace Sys2Proof.Machine

variable {α : Type} [DecidableEq α] {d : α}

omit [DecidableEq α] in
/-- Below every key a table reads as its default. -/
theorem sparseGet_below {l : List (Nat × α)} {a : Nat} (h : ∀ p ∈ l, a < p.1) : sparseGet d l a = d := by
  induction l with
  | nil => rfl
  | cons p l ih =>
    obtain ⟨k, w⟩ := p
    have hk : a < k := h (k, w) (by simp)
    simp only [sparseGet, if_neg (Nat.ne_of_lt hk)]
    exact ih fun q hq => h q (by simp [hq])

/-- The keys of a table after a store are its keys and perhaps the stored one. -/
theorem mem_sparseSet {l : List (Nat × α)} {a : Nat} {v : α} {q : Nat × α} (h : q ∈ sparseSet d l a v) :
    q ∈ l ∨ (q = (a, v) ∧ v ≠ d) := by
  induction l with
  | nil => simp only [sparseSet] at h; split at h <;> simp_all
  | cons p l ih =>
    obtain ⟨k, w⟩ := p
    simp only [sparseSet] at h
    split at h
    · split at h <;> simp_all; tauto
    · split at h
      · split at h <;> simp_all; tauto
      · rcases List.mem_cons.1 h with rfl | h
        · simp
        · rcases ih h with h | h
          · simp [h]
          · exact .inr h

/-- A store keeps the canonical form. -/
theorem sparseSet_wf {l : List (Nat × α)} (h : sparseWf d l) (a : Nat) (v : α) : sparseWf d (sparseSet d l a v) := by
  refine ⟨?_, fun q hq => ?_⟩
  · induction l with
    | nil => simp only [sparseSet]; split <;> simp
    | cons p l ih =>
      obtain ⟨k, w⟩ := p
      obtain ⟨hp, hd⟩ := h
      rw [List.pairwise_cons] at hp
      simp only [sparseSet]
      split
      · rename_i hak
        split
        · exact List.pairwise_cons.2 hp
        · refine List.pairwise_cons.2 ⟨fun q hq => ?_, List.pairwise_cons.2 hp⟩
          rcases List.mem_cons.1 hq with rfl | hq
          · exact hak
          · exact Nat.lt_trans hak (hp.1 q hq)
      · split
        · rename_i hak
          subst hak
          split
          · exact hp.2
          · exact List.pairwise_cons.2 ⟨hp.1, hp.2⟩
        · refine List.pairwise_cons.2 ⟨fun q hq => ?_, ih ⟨hp.2, fun q hq => hd q (by simp [hq])⟩⟩
          rcases mem_sparseSet hq with hq | ⟨rfl, _⟩
          · exact hp.1 q hq
          · simp only; omega
  · rcases mem_sparseSet hq with hq | ⟨rfl, hv⟩
    · exact h.2 q hq
    · exact hv

/-- Reading the stored key gives the stored value. -/
theorem sparseGet_sparseSet_same {l : List (Nat × α)} (h : sparseWf d l) (a : Nat) (v : α) :
    sparseGet d (sparseSet d l a v) a = v := by
  induction l with
  | nil => simp only [sparseSet]; split <;> simp_all [sparseGet]
  | cons p l ih =>
    obtain ⟨k, w⟩ := p
    obtain ⟨hp, hd⟩ := h
    rw [List.pairwise_cons] at hp
    simp only [sparseSet]
    split
    · rename_i hak
      split
      · rename_i hv
        subst hv
        exact sparseGet_below fun q hq => by
          rcases List.mem_cons.1 hq with rfl | hq
          · exact hak
          · exact Nat.lt_trans hak (hp.1 q hq)
      · simp [sparseGet]
    · split
      · rename_i hak
        subst hak
        split
        · rename_i hv
          subst hv
          exact sparseGet_below hp.1
        · simp [sparseGet]
      · rename_i hne
        simp only [sparseGet, if_neg hne]
        exact ih ⟨hp.2, fun q hq => hd q (by simp [hq])⟩

/-- Reading any other key is as before, in any table. -/
theorem sparseGet_sparseSet_other {l : List (Nat × α)} {a b : Nat} (v : α) (hb : b ≠ a) :
    sparseGet d (sparseSet d l a v) b = sparseGet d l b := by
  induction l with
  | nil => simp only [sparseSet]; split <;> simp [sparseGet, hb]
  | cons p l ih =>
    obtain ⟨k, w⟩ := p
    simp only [sparseSet]
    split
    · split <;> simp [sparseGet, hb]
    · split
      · rename_i hak
        subst hak
        split <;> simp [sparseGet, hb]
      · simp only [sparseGet, ih]

omit [DecidableEq α] in
/-- A value that is not the default is listed. -/
theorem mem_of_sparseGet {l : List (Nat × α)} {a : Nat} (h : sparseGet d l a ≠ d) : (a, sparseGet d l a) ∈ l := by
  induction l with
  | nil => simp [sparseGet] at h
  | cons p l ih =>
    obtain ⟨k, w⟩ := p
    by_cases hak : a = k
    · simp [sparseGet, hak]
    · simp only [sparseGet, if_neg hak] at h ⊢
      exact List.mem_cons_of_mem _ (ih h)

end Sys2Proof.Machine
end

