-- ==== Sys2Proof/Laws/Memory.lean ====
section
/-! SUPPORT. The memory: reading a byte after writing one, and every operation keeps the canonical form. -/

namespace Sys2Proof.Machine

variable (m : Memory) (buf o : Nat) (v : Byte)

@[simp] theorem Memory.setByte_rmap : (m.setByte buf o v).rmap = m.rmap := by
  unfold Memory.setByte; split <;> (try split) <;> rfl

@[simp] theorem Memory.setByte_wmap : (m.setByte buf o v).wmap = m.wmap := by
  unfold Memory.setByte; split <;> (try split) <;> rfl

@[simp] theorem Memory.setByte_bufLen (b : Nat) : (m.setByte buf o v).bufLen b = m.bufLen b := by
  unfold Memory.setByte
  split
  · rfl
  · rename_i c hc
    split
    · unfold Memory.bufLen
      by_cases hb : buf = b
      · subst hb
        obtain ⟨hlt, rfl⟩ := List.getElem?_eq_some_iff.1 hc
        simp [hlt]
      · simp [hb]
    · rfl

/-- A byte just written reads as written. -/
theorem Memory.byteAt_setByte_same (hw : ∀ b ∈ m.bufs, b.wf) (ho : o < m.bufLen buf) :
    (m.setByte buf o v).byteAt buf o = v := by
  unfold Memory.bufLen at ho
  unfold Memory.setByte
  split at ho
  · omega
  · rename_i c hc
    have hlt : buf < m.bufs.length := (List.getElem?_eq_some_iff.1 hc).1
    have hmem : c ∈ m.bufs := List.mem_of_getElem? hc
    simp [ho, Memory.byteAt, hlt, sparseGet_sparseSet_same (hw c hmem).1]

/-- A write leaves every other byte alone. -/
theorem Memory.byteAt_setByte_other (b p : Nat) (h : (b, p) ≠ (buf, o)) :
    (m.setByte buf o v).byteAt b p = m.byteAt b p := by
  unfold Memory.setByte
  split
  · rfl
  · rename_i c hc
    split
    · unfold Memory.byteAt
      by_cases hb : buf = b
      · subst hb
        obtain ⟨hlt, rfl⟩ := List.getElem?_eq_some_iff.1 hc
        have hp : p ≠ o := fun e => h (by rw [e])
        simp [hlt, sparseGet_sparseSet_other _ hp]
      · simp [hb]
    · rfl

@[simp] theorem Memory.setWord_rmap (w : Word16) : (m.setWord buf o w).rmap = m.rmap := by simp [Memory.setWord]

@[simp] theorem Memory.setWord_wmap (w : Word16) : (m.setWord buf o w).wmap = m.wmap := by simp [Memory.setWord]

@[simp] theorem Memory.setWord_bufLen (w : Word16) (b : Nat) : (m.setWord buf o w).bufLen b = m.bufLen b := by
  simp [Memory.setWord]

@[simp] theorem Memory.setWord_readEntry (w : Word16) (p : Params) (a : Addr) :
    (m.setWord buf o w).readEntry p a = m.readEntry p a := by
  simp [Memory.readEntry]

@[simp] theorem Memory.setWord_writeEntry (w : Word16) (p : Params) (a : Addr) :
    (m.setWord buf o w).writeEntry p a = m.writeEntry p a := by
  simp [Memory.writeEntry]

/-- The buffers of a memory keep their canonical form under a byte write. -/
theorem Memory.setByte_bufs_wf (hw : ∀ b ∈ m.bufs, b.wf) : ∀ b ∈ (m.setByte buf o v).bufs, b.wf := by
  unfold Memory.setByte
  split
  · exact hw
  · rename_i c hc
    have hmem : c ∈ m.bufs := List.mem_of_getElem? hc
    split
    · rename_i ho
      intro b hb
      rcases List.mem_or_eq_of_mem_set hb with hb | rfl
      · exact hw b hb
      · refine ⟨sparseSet_wf (hw c hmem).1 o v, fun q hq => ?_⟩
        rcases mem_sparseSet hq with hq | ⟨rfl, _⟩
        · exact (hw c hmem).2 q hq
        · exact ho
    · exact hw

/-- What an entry reaches does not depend on the bytes. -/
theorem Memory.entryOk_congr {m m' : Memory} (h : ∀ b, m'.bufLen b = m.bufLen b) (n : Params) (e : PageEntry) :
    m'.entryOk n e = m.entryOk n e := by
  cases e <;> simp [Memory.entryOk, h]

/-- The canonical form of a table does not depend on the bytes. -/
theorem Memory.tableWf_congr {m m' : Memory} (h : ∀ b, m'.bufLen b = m.bufLen b) (n : Params)
    {t : List (Nat × PageEntry)} (ht : m.tableWf n t) : m'.tableWf n t :=
  ⟨ht.1, fun p hp => ⟨(ht.2 p hp).1, (Memory.entryOk_congr h n p.2).trans (ht.2 p hp).2⟩⟩

/-- A byte write keeps the canonical form of the memory. -/
theorem Memory.setByte_wf (n : Params) (hm : m.wf n) : (m.setByte buf o v).wf n := by
  refine ⟨?_, ?_, ?_⟩
  · simpa using Memory.tableWf_congr (by simp) n hm.1
  · simpa using Memory.tableWf_congr (by simp) n hm.2.1
  · exact Memory.setByte_bufs_wf _ _ _ _ hm.2.2

/-- A word write keeps the canonical form of the memory. -/
theorem Memory.setWord_wf (n : Params) (w : Word16) (hm : m.wf n) : (m.setWord buf o w).wf n := by
  refine ⟨?_, ?_, ?_⟩
  · simpa using Memory.tableWf_congr (by simp) n hm.1
  · simpa using Memory.tableWf_congr (by simp) n hm.2.1
  · exact Memory.setByte_bufs_wf _ _ _ _ (Memory.setByte_bufs_wf _ _ _ _ hm.2.2)

/-- A word from its two bytes. -/
theorem bytes_of_word (w : Word16) : w.extractLsb' 8 8 ++ w.extractLsb' 0 8 = w := by
  apply BitVec.eq_of_getLsbD_eq
  intro i hi
  rw [BitVec.getLsbD_append]
  by_cases h : i < 8
  · simp [h]
  · have h8 : i - 8 < 8 := by omega
    have hi8 : 8 + (i - 8) = i := by omega
    simp [h, h8, hi8]

/-- A word just written reads as written. -/
theorem Memory.wordAt_setWord_same (hw : ∀ b ∈ m.bufs, b.wf) (w : Word16) (ho : o + 1 < m.bufLen buf) :
    (m.setWord buf o w).wordAt buf o = w := by
  unfold Memory.wordAt Memory.setWord
  rw [Memory.byteAt_setByte_same _ _ _ _ (Memory.setByte_bufs_wf _ _ _ _ hw) (by simpa using ho),
    Memory.byteAt_setByte_other _ _ _ _ _ _ (by simp),
    Memory.byteAt_setByte_same _ _ _ _ hw (by omega)]
  exact bytes_of_word w

/-- A word write leaves every other byte alone. -/
theorem Memory.byteAt_setWord_other (w : Word16) (b p : Nat) (h : (b, p) ≠ (buf, o)) (h1 : (b, p) ≠ (buf, o + 1)) :
    (m.setWord buf o w).byteAt b p = m.byteAt b p := by
  unfold Memory.setWord
  rw [Memory.byteAt_setByte_other _ _ _ _ _ _ h1, Memory.byteAt_setByte_other _ _ _ _ _ _ h]

/-- A word write leaves every word that shares no byte with it alone. -/
theorem Memory.wordAt_setWord_other (w : Word16) (b p : Nat) (h : p ≠ o ∧ p ≠ o + 1 ∧ p + 1 ≠ o) :
    (m.setWord buf o w).wordAt b p = m.wordAt b p := by
  have k : ∀ x, x ≠ o → x ≠ o + 1 → (m.setWord buf o w).byteAt b x = m.byteAt b x := fun x h1 h2 =>
    Memory.byteAt_setWord_other _ _ _ _ _ _ (by simp [h1]) (by simp [h2])
  unfold Memory.wordAt
  rw [k p h.1 h.2.1, k (p + 1) h.2.2 (by omega)]

/-- The pages of a run of stores. -/
theorem sparseGet_setPages (entry : Nat → PageEntry) (first n : Nat) (t : List (Nat × PageEntry))
    (ht : sparseWf unmapped t) (q : Nat) :
    sparseGet unmapped (setPages entry first n t) q
      = if first ≤ q ∧ q < first + n then entry q else sparseGet unmapped t q := by
  induction n generalizing first t with
  | zero => simp only [setPages]; rw [if_neg (by omega)]
  | succ n ih =>
    simp only [setPages]
    rw [ih _ _ (sparseSet_wf ht _ _)]
    by_cases hq : q = first
    · subst hq
      rw [if_neg (by omega), if_pos (by omega), sparseGet_sparseSet_same ht]
    · rw [sparseGet_sparseSet_other _ hq]
      by_cases hr : first + 1 ≤ q ∧ q < first + 1 + n
      · rw [if_pos hr, if_pos (by omega)]
      · rw [if_neg hr, if_neg (by omega)]

/-- A run of stores of good entries keeps the canonical form of a table. -/
theorem Memory.setPages_tableWf (c : Params) (entry : Nat → PageEntry) (first n : Nat)
    (t : List (Nat × PageEntry)) (ht : m.tableWf c t)
    (he : ∀ p, first ≤ p → p < first + n → p < c.pageCount ∧ m.entryOk c (entry p) = true) :
    m.tableWf c (setPages entry first n t) := by
  induction n generalizing first t with
  | zero => exact ht
  | succ n ih =>
    refine ih _ _ ⟨sparseSet_wf ht.1 _ _, fun p hp => ?_⟩ fun p h1 h2 => he p (by omega) (by omega)
    rcases mem_sparseSet hp with hp | ⟨rfl, _⟩
    · exact ht.2 p hp
    · exact he first (by omega) (by omega)

@[simp] theorem Memory.mapRange_bufs (c : Params) (entry : Nat → PageEntry) (start stop dir : Nat) :
    (m.mapRange c entry start stop dir).bufs = m.bufs := rfl

@[simp] theorem Memory.mapRange_bufLen (c : Params) (entry : Nat → PageEntry) (start stop dir b : Nat) :
    (m.mapRange c entry start stop dir).bufLen b = m.bufLen b := rfl

/-- Consistent parameters have consistent pages. -/
theorem wf_pagesOk {c : Params} (h : c.wf) : c.pagesOk := h.2.2.2.2.2.2.2.2.2

/-- A page of consistent parameters has a byte. -/
theorem pagesOk_pos {c : Params} (h : c.pagesOk) : 0 < c.pageBytes :=
  Nat.pos_of_ne_zero fun e => by have := h.2; rw [e] at this; simp at this

/-- Offsets less than 8 bytes apart are apart in a page. -/
theorem offset_ne {c : Params} (h : c.pagesOk) (a d : Nat) (h0 : 0 < d) (h8 : d < 8) :
    (a + d) % c.pageBytes ≠ a % c.pageBytes := by
  intro e
  have hd : c.pageBytes ∣ d := (Nat.modEq_zero_iff_dvd).1 (Nat.ModEq.add_left_cancel' a (by simpa [Nat.ModEq] using e))
  have := Nat.le_of_dvd h0 hd
  have := pagesOk_pos h
  have := h.1
  omega

/-- The page of an address in a table of consistent parameters: no page number is cut. -/
theorem page_eq {c : Params} (h : c.pagesOk) (a : Addr) : page c a = byteAddr a / c.pageBytes := by
  unfold page
  apply Nat.mod_eq_of_lt
  apply Nat.div_lt_of_lt_mul
  rw [h.2]
  unfold byteAddr
  have := a.isLt
  omega

/-- The page and the offset of an address are its byte address. -/
theorem page_offset {c : Params} (h : c.pagesOk) (a : Addr) :
    page c a * c.pageBytes + pageOffset c a = byteAddr a := by
  rw [page_eq h, Nat.mul_comm]
  exact Nat.div_add_mod _ _

/-- What the shared range checks say: whole pages, in order, inside the tables. -/
theorem rangeOk_pages {c : Params} (h : c.pagesOk) {start stop dir : Nat} (hr : rangeOk c start stop dir = true) :
    ∃ i j, start = i * c.pageBytes ∧ stop + 1 = (j + 1) * c.pageBytes ∧ start / c.pageBytes = i
      ∧ stop / c.pageBytes = j ∧ i ≤ j ∧ j < c.pageCount := by
  simp only [rangeOk, Bool.and_eq_true, decide_eq_true_eq, beq_iff_eq] at hr
  obtain ⟨⟨⟨⟨h1, h2⟩, h3⟩, h4⟩, -⟩ := hr
  have h0 := pagesOk_pos h
  have e1 := Nat.div_add_mod start c.pageBytes
  have e2 := Nat.div_add_mod stop c.pageBytes
  have l : stop / c.pageBytes < c.pageCount := by
    apply Nat.div_lt_of_lt_mul
    rw [h.2]
    exact h4
  refine ⟨_, _, ?_, ?_, rfl, rfl, Nat.div_le_div_right h3, l⟩
  · rw [h1] at e1; rw [Nat.mul_comm]; omega
  · rw [h2] at e2; rw [Nat.add_mul, Nat.mul_comm]; omega

/-- Installing good entries keeps the canonical form of the memory. -/
theorem Memory.mapRange_wf {c : Params} (hp : c.pagesOk) (entry : Nat → PageEntry) (start stop dir : Nat)
    (hm : m.wf c) (hr : rangeOk c start stop dir = true)
    (he : ∀ p, start / c.pageBytes ≤ p → p ≤ stop / c.pageBytes → m.entryOk c (entry p) = true) :
    (m.mapRange c entry start stop dir).wf c := by
  obtain ⟨i, j, -, -, h1, h2, h3, h4⟩ := rangeOk_pages hp hr
  have hq : ∀ p, start / c.pageBytes ≤ p → p < start / c.pageBytes + (stop / c.pageBytes + 1 - start / c.pageBytes)
      → p < c.pageCount ∧ m.entryOk c (entry p) = true := fun p k1 k2 => ⟨by omega, he p k1 (by omega)⟩
  have hc : ∀ b, (m.mapRange c entry start stop dir).bufLen b = m.bufLen b := by simp
  refine ⟨Memory.tableWf_congr hc _ ?_, Memory.tableWf_congr hc _ ?_, hm.2.2⟩
  · show m.tableWf c (if dir.testBit 0 then _ else _)
    split
    · exact m.setPages_tableWf _ _ _ _ _ hm.1 hq
    · exact hm.1
  · show m.tableWf c (if dir.testBit 1 then _ else _)
    split
    · exact m.setPages_tableWf _ _ _ _ _ hm.2.1 hq
    · exact hm.2.1

/-- `map_memory` keeps the canonical form. -/
theorem Memory.mapMemory_wf {c : Params} (hp : c.pagesOk) (start stop dir : Nat) (hm : m.wf c) :
    (m.mapMemory c buf start stop dir).2.wf c := by
  unfold Memory.mapMemory
  split
  · rename_i h
    simp only [Bool.and_eq_true, decide_eq_true_eq] at h
    refine m.mapRange_wf hp _ _ _ _ hm h.1 fun p h1 h2 => ?_
    obtain ⟨i, j, e1, e2, d1, d2, -, -⟩ := rangeOk_pages hp h.1
    rw [d1] at h1
    rw [d2] at h2
    have k1 : p * c.pageBytes = i * c.pageBytes + (p - i) * c.pageBytes := by rw [← Nat.add_mul]; congr 1; omega
    have k2 : (p + 1) * c.pageBytes ≤ (j + 1) * c.pageBytes := Nat.mul_le_mul_right _ (by omega)
    have k3 : (p + 1) * c.pageBytes = p * c.pageBytes + c.pageBytes := Nat.succ_mul _ _
    refine decide_eq_true ⟨?_, by omega⟩
    rw [show p * c.pageBytes - start = (p - i) * c.pageBytes by omega]
    exact Nat.mul_mod_left _ _
  · exact hm

/-- `map_handler` keeps the canonical form. -/
theorem Memory.mapHandler_wf {c : Params} (hp : c.pagesOk) (id start stop dir : Nat) (hm : m.wf c) :
    (m.mapHandler c id start stop dir).2.wf c := by
  unfold Memory.mapHandler
  split
  · rename_i h
    simp only [Bool.and_eq_true, decide_eq_true_eq] at h
    exact m.mapRange_wf hp _ _ _ _ hm h.1 fun p _ _ => decide_eq_true h.2
  · exact hm

/-- The map operations leave the buffers alone. -/
@[simp] theorem Memory.mapMemory_bufs (c : Params) (start stop dir : Nat) :
    (m.mapMemory c buf start stop dir).2.bufs = m.bufs := by
  unfold Memory.mapMemory; split <;> rfl

/-- The map operations leave the buffers alone. -/
@[simp] theorem Memory.mapHandler_bufs (c : Params) (id start stop dir : Nat) :
    (m.mapHandler c id start stop dir).2.bufs = m.bufs := by
  unfold Memory.mapHandler; split <;> rfl

/-- What a byte reads as depends on the buffers alone. -/
theorem Memory.byteAt_congr {m m' : Memory} (h : m'.bufs = m.bufs) (b p : Nat) : m'.byteAt b p = m.byteAt b p := by
  unfold Memory.byteAt; rw [h]

end Sys2Proof.Machine
end

