-- ==== Sys2Proof/Laws/Outcome.lean ====
section
/-! SUPPORT. Sequencing of outcomes, and the bits of a word. -/

namespace Sys2Proof.Machine

@[simp] theorem andThen_next {α β : Type} (a : α) (f : α → Result β) : andThen (.next a) f = f a := rfl

@[simp] theorem andThen_fault {α β : Type} (r : Fault) (f : α → Result β) : andThen (.fault r) f = .fault r := rfl

@[simp] theorem andThen_refused {α β : Type} (r : Refusal) (f : α → Result β) : andThen (.refused r) f = .refused r := rfl

/-- A sequence answers exactly when its parts do. -/
theorem andThen_eq_next {α β : Type} {o : Result α} {f : α → Result β} {b : β} :
    andThen o f = .next b ↔ ∃ a, o = .next a ∧ f a = .next b := by
  cases o <;> simp [andThen]

theorem bitMask16_getLsbD (i : Fin 16) (j : Nat) (hj : j < 16) : (bitMask16 i).getLsbD j = decide (j = i.val) := by
  simp only [bitMask16, BitVec.getLsbD_shiftLeft, BitVec.getLsbD_one]
  have := i.isLt
  by_cases h : j = i.val
  · simp [h]
  · simp [h, hj]; omega

/-- What a single-bit update does to each bit. -/
theorem setBit16_getLsbD (v : Word16) (i : Fin 16) (b : Bool) (j : Nat) (hj : j < 16) :
    (setBit16 v i b).getLsbD j = if j = i.val then b else v.getLsbD j := by
  have h := bitMask16_getLsbD i j hj
  unfold bitMask16 at h
  by_cases hb : b <;> by_cases hji : j = i.val <;> simp_all [setBit16]
  intro _
  omega

end Sys2Proof.Machine
end

