-- ==== Sys2Proof/Laws/State.lean ====
section
/-! SUPPORT. What each named update of State does to each field, true by rfl (beside Machine/Regs.lean). -/

namespace Sys2Proof.Machine

variable (s : State)

@[simp] theorem State.setX_cfg (i : Fin 31) (v : Word32) : (s.setX i v).cfg = s.cfg := rfl
@[simp] theorem State.setX_x (i : Fin 31) (v : Word32) : (s.setX i v).x = s.x.set i.val v i.isLt := rfl
@[simp] theorem State.setX_pc (i : Fin 31) (v : Word32) : (s.setX i v).pc = s.pc := rfl
@[simp] theorem State.setX_st (i : Fin 31) (v : Word32) : (s.setX i v).st = s.st := rfl
@[simp] theorem State.setX_io (i : Fin 31) (v : Word32) : (s.setX i v).io = s.io := rfl
@[simp] theorem State.setX_pixelshift (i : Fin 31) (v : Word32) : (s.setX i v).pixelshift = s.pixelshift := rfl
@[simp] theorem State.setX_ropSel (i : Fin 31) (v : Word32) : (s.setX i v).ropSel = s.ropSel := rfl
@[simp] theorem State.setX_icounter (i : Fin 31) (v : Word32) : (s.setX i v).icounter = s.icounter := rfl
@[simp] theorem State.setX_cyclesStart (i : Fin 31) (v : Word32) : (s.setX i v).cyclesStart = s.cyclesStart := rfl
@[simp] theorem State.setX_totalCycles (i : Fin 31) (v : Word32) : (s.setX i v).totalCycles = s.totalCycles := rfl
@[simp] theorem State.setX_inRun (i : Fin 31) (v : Word32) : (s.setX i v).inRun = s.inRun := rfl
@[simp] theorem State.setX_timerActive (i : Fin 31) (v : Word32) : (s.setX i v).timerActive = s.timerActive := rfl
@[simp] theorem State.setX_timerCyc (i : Fin 31) (v : Word32) : (s.setX i v).timerCyc = s.timerCyc := rfl
@[simp] theorem State.setX_timerStamp (i : Fin 31) (v : Word32) : (s.setX i v).timerStamp = s.timerStamp := rfl
@[simp] theorem State.setX_stopFlag (i : Fin 31) (v : Word32) : (s.setX i v).stopFlag = s.stopFlag := rfl
@[simp] theorem State.setX_line0 (i : Fin 31) (v : Word32) : (s.setX i v).line0 = s.line0 := rfl
@[simp] theorem State.setX_line1 (i : Fin 31) (v : Word32) : (s.setX i v).line1 = s.line1 := rfl
@[simp] theorem State.setX_shiftreg (i : Fin 31) (v : Word32) : (s.setX i v).shiftreg = s.shiftreg := rfl
@[simp] theorem State.setX_mem (i : Fin 31) (v : Word32) : (s.setX i v).mem = s.mem := rfl
@[simp] theorem State.setX_ht (i : Fin 31) (v : Word32) : (s.setX i v).ht = s.ht := rfl
@[simp] theorem State.setX_timerCb (i : Fin 31) (v : Word32) : (s.setX i v).timerCb = s.timerCb := rfl
@[simp] theorem State.setX_intoutCb (i : Fin 31) (v : Word32) : (s.setX i v).intoutCb = s.intoutCb := rfl
@[simp] theorem State.setX_events (i : Fin 31) (v : Word32) : (s.setX i v).events = s.events := rfl
@[simp] theorem State.setX_draws (i : Fin 31) (v : Word32) : (s.setX i v).draws = s.draws := rfl
@[simp] theorem State.setX_inbox (i : Fin 31) (v : Word32) : (s.setX i v).inbox = s.inbox := rfl
@[simp] theorem State.setX_results (i : Fin 31) (v : Word32) : (s.setX i v).results = s.results := rfl

@[simp] theorem State.setPc_cfg (v : Addr) : (s.setPc v).cfg = s.cfg := rfl
@[simp] theorem State.setPc_x (v : Addr) : (s.setPc v).x = s.x := rfl
@[simp] theorem State.setPc_pc (v : Addr) : (s.setPc v).pc = v := rfl
@[simp] theorem State.setPc_st (v : Addr) : (s.setPc v).st = s.st := rfl
@[simp] theorem State.setPc_io (v : Addr) : (s.setPc v).io = s.io := rfl
@[simp] theorem State.setPc_pixelshift (v : Addr) : (s.setPc v).pixelshift = s.pixelshift := rfl
@[simp] theorem State.setPc_ropSel (v : Addr) : (s.setPc v).ropSel = s.ropSel := rfl
@[simp] theorem State.setPc_icounter (v : Addr) : (s.setPc v).icounter = s.icounter := rfl
@[simp] theorem State.setPc_cyclesStart (v : Addr) : (s.setPc v).cyclesStart = s.cyclesStart := rfl
@[simp] theorem State.setPc_totalCycles (v : Addr) : (s.setPc v).totalCycles = s.totalCycles := rfl
@[simp] theorem State.setPc_inRun (v : Addr) : (s.setPc v).inRun = s.inRun := rfl
@[simp] theorem State.setPc_timerActive (v : Addr) : (s.setPc v).timerActive = s.timerActive := rfl
@[simp] theorem State.setPc_timerCyc (v : Addr) : (s.setPc v).timerCyc = s.timerCyc := rfl
@[simp] theorem State.setPc_timerStamp (v : Addr) : (s.setPc v).timerStamp = s.timerStamp := rfl
@[simp] theorem State.setPc_stopFlag (v : Addr) : (s.setPc v).stopFlag = s.stopFlag := rfl
@[simp] theorem State.setPc_line0 (v : Addr) : (s.setPc v).line0 = s.line0 := rfl
@[simp] theorem State.setPc_line1 (v : Addr) : (s.setPc v).line1 = s.line1 := rfl
@[simp] theorem State.setPc_shiftreg (v : Addr) : (s.setPc v).shiftreg = s.shiftreg := rfl
@[simp] theorem State.setPc_mem (v : Addr) : (s.setPc v).mem = s.mem := rfl
@[simp] theorem State.setPc_ht (v : Addr) : (s.setPc v).ht = s.ht := rfl
@[simp] theorem State.setPc_timerCb (v : Addr) : (s.setPc v).timerCb = s.timerCb := rfl
@[simp] theorem State.setPc_intoutCb (v : Addr) : (s.setPc v).intoutCb = s.intoutCb := rfl
@[simp] theorem State.setPc_events (v : Addr) : (s.setPc v).events = s.events := rfl
@[simp] theorem State.setPc_draws (v : Addr) : (s.setPc v).draws = s.draws := rfl
@[simp] theorem State.setPc_inbox (v : Addr) : (s.setPc v).inbox = s.inbox := rfl
@[simp] theorem State.setPc_results (v : Addr) : (s.setPc v).results = s.results := rfl

@[simp] theorem State.setSt_cfg (v : Word32) : (s.setSt v).cfg = s.cfg := rfl
@[simp] theorem State.setSt_x (v : Word32) : (s.setSt v).x = s.x := rfl
@[simp] theorem State.setSt_pc (v : Word32) : (s.setSt v).pc = s.pc := rfl
@[simp] theorem State.setSt_st (v : Word32) : (s.setSt v).st = v := rfl
@[simp] theorem State.setSt_io (v : Word32) : (s.setSt v).io = s.io := rfl
@[simp] theorem State.setSt_pixelshift (v : Word32) : (s.setSt v).pixelshift = s.pixelshift := rfl
@[simp] theorem State.setSt_ropSel (v : Word32) : (s.setSt v).ropSel = s.ropSel := rfl
@[simp] theorem State.setSt_icounter (v : Word32) : (s.setSt v).icounter = s.icounter := rfl
@[simp] theorem State.setSt_cyclesStart (v : Word32) : (s.setSt v).cyclesStart = s.cyclesStart := rfl
@[simp] theorem State.setSt_totalCycles (v : Word32) : (s.setSt v).totalCycles = s.totalCycles := rfl
@[simp] theorem State.setSt_inRun (v : Word32) : (s.setSt v).inRun = s.inRun := rfl
@[simp] theorem State.setSt_timerActive (v : Word32) : (s.setSt v).timerActive = s.timerActive := rfl
@[simp] theorem State.setSt_timerCyc (v : Word32) : (s.setSt v).timerCyc = s.timerCyc := rfl
@[simp] theorem State.setSt_timerStamp (v : Word32) : (s.setSt v).timerStamp = s.timerStamp := rfl
@[simp] theorem State.setSt_stopFlag (v : Word32) : (s.setSt v).stopFlag = s.stopFlag := rfl
@[simp] theorem State.setSt_line0 (v : Word32) : (s.setSt v).line0 = s.line0 := rfl
@[simp] theorem State.setSt_line1 (v : Word32) : (s.setSt v).line1 = s.line1 := rfl
@[simp] theorem State.setSt_shiftreg (v : Word32) : (s.setSt v).shiftreg = s.shiftreg := rfl
@[simp] theorem State.setSt_mem (v : Word32) : (s.setSt v).mem = s.mem := rfl
@[simp] theorem State.setSt_ht (v : Word32) : (s.setSt v).ht = s.ht := rfl
@[simp] theorem State.setSt_timerCb (v : Word32) : (s.setSt v).timerCb = s.timerCb := rfl
@[simp] theorem State.setSt_intoutCb (v : Word32) : (s.setSt v).intoutCb = s.intoutCb := rfl
@[simp] theorem State.setSt_events (v : Word32) : (s.setSt v).events = s.events := rfl
@[simp] theorem State.setSt_draws (v : Word32) : (s.setSt v).draws = s.draws := rfl
@[simp] theorem State.setSt_inbox (v : Word32) : (s.setSt v).inbox = s.inbox := rfl
@[simp] theorem State.setSt_results (v : Word32) : (s.setSt v).results = s.results := rfl

@[simp] theorem State.setIo_cfg (i : Fin 64) (v : Word16) : (s.setIo i v).cfg = s.cfg := rfl
@[simp] theorem State.setIo_x (i : Fin 64) (v : Word16) : (s.setIo i v).x = s.x := rfl
@[simp] theorem State.setIo_pc (i : Fin 64) (v : Word16) : (s.setIo i v).pc = s.pc := rfl
@[simp] theorem State.setIo_st (i : Fin 64) (v : Word16) : (s.setIo i v).st = s.st := rfl
@[simp] theorem State.setIo_io (i : Fin 64) (v : Word16) : (s.setIo i v).io = s.io.set i.val v i.isLt := rfl
@[simp] theorem State.setIo_pixelshift (i : Fin 64) (v : Word16) : (s.setIo i v).pixelshift = s.pixelshift := rfl
@[simp] theorem State.setIo_ropSel (i : Fin 64) (v : Word16) : (s.setIo i v).ropSel = s.ropSel := rfl
@[simp] theorem State.setIo_icounter (i : Fin 64) (v : Word16) : (s.setIo i v).icounter = s.icounter := rfl
@[simp] theorem State.setIo_cyclesStart (i : Fin 64) (v : Word16) : (s.setIo i v).cyclesStart = s.cyclesStart := rfl
@[simp] theorem State.setIo_totalCycles (i : Fin 64) (v : Word16) : (s.setIo i v).totalCycles = s.totalCycles := rfl
@[simp] theorem State.setIo_inRun (i : Fin 64) (v : Word16) : (s.setIo i v).inRun = s.inRun := rfl
@[simp] theorem State.setIo_timerActive (i : Fin 64) (v : Word16) : (s.setIo i v).timerActive = s.timerActive := rfl
@[simp] theorem State.setIo_timerCyc (i : Fin 64) (v : Word16) : (s.setIo i v).timerCyc = s.timerCyc := rfl
@[simp] theorem State.setIo_timerStamp (i : Fin 64) (v : Word16) : (s.setIo i v).timerStamp = s.timerStamp := rfl
@[simp] theorem State.setIo_stopFlag (i : Fin 64) (v : Word16) : (s.setIo i v).stopFlag = s.stopFlag := rfl
@[simp] theorem State.setIo_line0 (i : Fin 64) (v : Word16) : (s.setIo i v).line0 = s.line0 := rfl
@[simp] theorem State.setIo_line1 (i : Fin 64) (v : Word16) : (s.setIo i v).line1 = s.line1 := rfl
@[simp] theorem State.setIo_shiftreg (i : Fin 64) (v : Word16) : (s.setIo i v).shiftreg = s.shiftreg := rfl
@[simp] theorem State.setIo_mem (i : Fin 64) (v : Word16) : (s.setIo i v).mem = s.mem := rfl
@[simp] theorem State.setIo_ht (i : Fin 64) (v : Word16) : (s.setIo i v).ht = s.ht := rfl
@[simp] theorem State.setIo_timerCb (i : Fin 64) (v : Word16) : (s.setIo i v).timerCb = s.timerCb := rfl
@[simp] theorem State.setIo_intoutCb (i : Fin 64) (v : Word16) : (s.setIo i v).intoutCb = s.intoutCb := rfl
@[simp] theorem State.setIo_events (i : Fin 64) (v : Word16) : (s.setIo i v).events = s.events := rfl
@[simp] theorem State.setIo_draws (i : Fin 64) (v : Word16) : (s.setIo i v).draws = s.draws := rfl
@[simp] theorem State.setIo_inbox (i : Fin 64) (v : Word16) : (s.setIo i v).inbox = s.inbox := rfl
@[simp] theorem State.setIo_results (i : Fin 64) (v : Word16) : (s.setIo i v).results = s.results := rfl

@[simp] theorem State.charge_cfg (c : Nat) : (s.charge c).cfg = s.cfg := rfl
@[simp] theorem State.charge_x (c : Nat) : (s.charge c).x = s.x := rfl
@[simp] theorem State.charge_pc (c : Nat) : (s.charge c).pc = s.pc := rfl
@[simp] theorem State.charge_st (c : Nat) : (s.charge c).st = s.st := rfl
@[simp] theorem State.charge_io (c : Nat) : (s.charge c).io = s.io := rfl
@[simp] theorem State.charge_pixelshift (c : Nat) : (s.charge c).pixelshift = s.pixelshift := rfl
@[simp] theorem State.charge_ropSel (c : Nat) : (s.charge c).ropSel = s.ropSel := rfl
@[simp] theorem State.charge_icounter (c : Nat) : (s.charge c).icounter = s.icounter - c := rfl
@[simp] theorem State.charge_cyclesStart (c : Nat) : (s.charge c).cyclesStart = s.cyclesStart := rfl
@[simp] theorem State.charge_totalCycles (c : Nat) : (s.charge c).totalCycles = s.totalCycles := rfl
@[simp] theorem State.charge_inRun (c : Nat) : (s.charge c).inRun = s.inRun := rfl
@[simp] theorem State.charge_timerActive (c : Nat) : (s.charge c).timerActive = s.timerActive := rfl
@[simp] theorem State.charge_timerCyc (c : Nat) : (s.charge c).timerCyc = s.timerCyc := rfl
@[simp] theorem State.charge_timerStamp (c : Nat) : (s.charge c).timerStamp = s.timerStamp := rfl
@[simp] theorem State.charge_stopFlag (c : Nat) : (s.charge c).stopFlag = s.stopFlag := rfl
@[simp] theorem State.charge_line0 (c : Nat) : (s.charge c).line0 = s.line0 := rfl
@[simp] theorem State.charge_line1 (c : Nat) : (s.charge c).line1 = s.line1 := rfl
@[simp] theorem State.charge_shiftreg (c : Nat) : (s.charge c).shiftreg = s.shiftreg := rfl
@[simp] theorem State.charge_mem (c : Nat) : (s.charge c).mem = s.mem := rfl
@[simp] theorem State.charge_ht (c : Nat) : (s.charge c).ht = s.ht := rfl
@[simp] theorem State.charge_timerCb (c : Nat) : (s.charge c).timerCb = s.timerCb := rfl
@[simp] theorem State.charge_intoutCb (c : Nat) : (s.charge c).intoutCb = s.intoutCb := rfl
@[simp] theorem State.charge_events (c : Nat) : (s.charge c).events = s.events := rfl
@[simp] theorem State.charge_draws (c : Nat) : (s.charge c).draws = s.draws := rfl
@[simp] theorem State.charge_inbox (c : Nat) : (s.charge c).inbox = s.inbox := rfl
@[simp] theorem State.charge_results (c : Nat) : (s.charge c).results = s.results := rfl

@[simp] theorem State.setIcounter_cfg (v : Int) : (s.setIcounter v).cfg = s.cfg := rfl
@[simp] theorem State.setIcounter_x (v : Int) : (s.setIcounter v).x = s.x := rfl
@[simp] theorem State.setIcounter_pc (v : Int) : (s.setIcounter v).pc = s.pc := rfl
@[simp] theorem State.setIcounter_st (v : Int) : (s.setIcounter v).st = s.st := rfl
@[simp] theorem State.setIcounter_io (v : Int) : (s.setIcounter v).io = s.io := rfl
@[simp] theorem State.setIcounter_pixelshift (v : Int) : (s.setIcounter v).pixelshift = s.pixelshift := rfl
@[simp] theorem State.setIcounter_ropSel (v : Int) : (s.setIcounter v).ropSel = s.ropSel := rfl
@[simp] theorem State.setIcounter_icounter (v : Int) : (s.setIcounter v).icounter = v := rfl
@[simp] theorem State.setIcounter_cyclesStart (v : Int) : (s.setIcounter v).cyclesStart = s.cyclesStart := rfl
@[simp] theorem State.setIcounter_totalCycles (v : Int) : (s.setIcounter v).totalCycles = s.totalCycles := rfl
@[simp] theorem State.setIcounter_inRun (v : Int) : (s.setIcounter v).inRun = s.inRun := rfl
@[simp] theorem State.setIcounter_timerActive (v : Int) : (s.setIcounter v).timerActive = s.timerActive := rfl
@[simp] theorem State.setIcounter_timerCyc (v : Int) : (s.setIcounter v).timerCyc = s.timerCyc := rfl
@[simp] theorem State.setIcounter_timerStamp (v : Int) : (s.setIcounter v).timerStamp = s.timerStamp := rfl
@[simp] theorem State.setIcounter_stopFlag (v : Int) : (s.setIcounter v).stopFlag = s.stopFlag := rfl
@[simp] theorem State.setIcounter_line0 (v : Int) : (s.setIcounter v).line0 = s.line0 := rfl
@[simp] theorem State.setIcounter_line1 (v : Int) : (s.setIcounter v).line1 = s.line1 := rfl
@[simp] theorem State.setIcounter_shiftreg (v : Int) : (s.setIcounter v).shiftreg = s.shiftreg := rfl
@[simp] theorem State.setIcounter_mem (v : Int) : (s.setIcounter v).mem = s.mem := rfl
@[simp] theorem State.setIcounter_ht (v : Int) : (s.setIcounter v).ht = s.ht := rfl
@[simp] theorem State.setIcounter_timerCb (v : Int) : (s.setIcounter v).timerCb = s.timerCb := rfl
@[simp] theorem State.setIcounter_intoutCb (v : Int) : (s.setIcounter v).intoutCb = s.intoutCb := rfl
@[simp] theorem State.setIcounter_events (v : Int) : (s.setIcounter v).events = s.events := rfl
@[simp] theorem State.setIcounter_draws (v : Int) : (s.setIcounter v).draws = s.draws := rfl
@[simp] theorem State.setIcounter_inbox (v : Int) : (s.setIcounter v).inbox = s.inbox := rfl
@[simp] theorem State.setIcounter_results (v : Int) : (s.setIcounter v).results = s.results := rfl

@[simp] theorem State.emit_cfg (e : Event) : (s.emit e).cfg = s.cfg := rfl
@[simp] theorem State.emit_x (e : Event) : (s.emit e).x = s.x := rfl
@[simp] theorem State.emit_pc (e : Event) : (s.emit e).pc = s.pc := rfl
@[simp] theorem State.emit_st (e : Event) : (s.emit e).st = s.st := rfl
@[simp] theorem State.emit_io (e : Event) : (s.emit e).io = s.io := rfl
@[simp] theorem State.emit_pixelshift (e : Event) : (s.emit e).pixelshift = s.pixelshift := rfl
@[simp] theorem State.emit_ropSel (e : Event) : (s.emit e).ropSel = s.ropSel := rfl
@[simp] theorem State.emit_icounter (e : Event) : (s.emit e).icounter = s.icounter := rfl
@[simp] theorem State.emit_cyclesStart (e : Event) : (s.emit e).cyclesStart = s.cyclesStart := rfl
@[simp] theorem State.emit_totalCycles (e : Event) : (s.emit e).totalCycles = s.totalCycles := rfl
@[simp] theorem State.emit_inRun (e : Event) : (s.emit e).inRun = s.inRun := rfl
@[simp] theorem State.emit_timerActive (e : Event) : (s.emit e).timerActive = s.timerActive := rfl
@[simp] theorem State.emit_timerCyc (e : Event) : (s.emit e).timerCyc = s.timerCyc := rfl
@[simp] theorem State.emit_timerStamp (e : Event) : (s.emit e).timerStamp = s.timerStamp := rfl
@[simp] theorem State.emit_stopFlag (e : Event) : (s.emit e).stopFlag = s.stopFlag := rfl
@[simp] theorem State.emit_line0 (e : Event) : (s.emit e).line0 = s.line0 := rfl
@[simp] theorem State.emit_line1 (e : Event) : (s.emit e).line1 = s.line1 := rfl
@[simp] theorem State.emit_shiftreg (e : Event) : (s.emit e).shiftreg = s.shiftreg := rfl
@[simp] theorem State.emit_mem (e : Event) : (s.emit e).mem = s.mem := rfl
@[simp] theorem State.emit_ht (e : Event) : (s.emit e).ht = s.ht := rfl
@[simp] theorem State.emit_timerCb (e : Event) : (s.emit e).timerCb = s.timerCb := rfl
@[simp] theorem State.emit_intoutCb (e : Event) : (s.emit e).intoutCb = s.intoutCb := rfl
@[simp] theorem State.emit_events (e : Event) : (s.emit e).events = s.events ++ [e] := rfl
@[simp] theorem State.emit_draws (e : Event) : (s.emit e).draws = s.draws := rfl
@[simp] theorem State.emit_inbox (e : Event) : (s.emit e).inbox = s.inbox := rfl
@[simp] theorem State.emit_results (e : Event) : (s.emit e).results = s.results := rfl

@[simp] theorem State.tick_cfg : s.tick.cfg = s.cfg := rfl
@[simp] theorem State.tick_x : s.tick.x = s.x := rfl
@[simp] theorem State.tick_pc : s.tick.pc = s.pc := rfl
@[simp] theorem State.tick_st : s.tick.st = s.st := rfl
@[simp] theorem State.tick_io : s.tick.io = s.io := rfl
@[simp] theorem State.tick_pixelshift : s.tick.pixelshift = s.pixelshift := rfl
@[simp] theorem State.tick_ropSel : s.tick.ropSel = s.ropSel := rfl
@[simp] theorem State.tick_icounter : s.tick.icounter = s.icounter := rfl
@[simp] theorem State.tick_cyclesStart : s.tick.cyclesStart = s.cyclesStart := rfl
@[simp] theorem State.tick_totalCycles : s.tick.totalCycles = s.totalCycles := rfl
@[simp] theorem State.tick_inRun : s.tick.inRun = s.inRun := rfl
@[simp] theorem State.tick_timerActive : s.tick.timerActive = s.timerActive := rfl
@[simp] theorem State.tick_timerCyc : s.tick.timerCyc = s.timerCyc := rfl
@[simp] theorem State.tick_timerStamp : s.tick.timerStamp = s.timerStamp := rfl
@[simp] theorem State.tick_stopFlag : s.tick.stopFlag = s.stopFlag := rfl
@[simp] theorem State.tick_line0 : s.tick.line0 = s.line0 := rfl
@[simp] theorem State.tick_line1 : s.tick.line1 = s.line1 := rfl
@[simp] theorem State.tick_shiftreg : s.tick.shiftreg = s.shiftreg := rfl
@[simp] theorem State.tick_mem : s.tick.mem = s.mem := rfl
@[simp] theorem State.tick_ht : s.tick.ht = s.ht := rfl
@[simp] theorem State.tick_timerCb : s.tick.timerCb = s.timerCb := rfl
@[simp] theorem State.tick_intoutCb : s.tick.intoutCb = s.intoutCb := rfl
@[simp] theorem State.tick_events : s.tick.events = s.events := rfl
@[simp] theorem State.tick_draws : s.tick.draws = s.draws + 1 := rfl
@[simp] theorem State.tick_inbox : s.tick.inbox = s.inbox := rfl
@[simp] theorem State.tick_results : s.tick.results = s.results := rfl

@[simp] theorem State.setMem_cfg (m : Memory) : (s.setMem m).cfg = s.cfg := rfl
@[simp] theorem State.setMem_x (m : Memory) : (s.setMem m).x = s.x := rfl
@[simp] theorem State.setMem_pc (m : Memory) : (s.setMem m).pc = s.pc := rfl
@[simp] theorem State.setMem_st (m : Memory) : (s.setMem m).st = s.st := rfl
@[simp] theorem State.setMem_io (m : Memory) : (s.setMem m).io = s.io := rfl
@[simp] theorem State.setMem_pixelshift (m : Memory) : (s.setMem m).pixelshift = s.pixelshift := rfl
@[simp] theorem State.setMem_ropSel (m : Memory) : (s.setMem m).ropSel = s.ropSel := rfl
@[simp] theorem State.setMem_icounter (m : Memory) : (s.setMem m).icounter = s.icounter := rfl
@[simp] theorem State.setMem_cyclesStart (m : Memory) : (s.setMem m).cyclesStart = s.cyclesStart := rfl
@[simp] theorem State.setMem_totalCycles (m : Memory) : (s.setMem m).totalCycles = s.totalCycles := rfl
@[simp] theorem State.setMem_inRun (m : Memory) : (s.setMem m).inRun = s.inRun := rfl
@[simp] theorem State.setMem_timerActive (m : Memory) : (s.setMem m).timerActive = s.timerActive := rfl
@[simp] theorem State.setMem_timerCyc (m : Memory) : (s.setMem m).timerCyc = s.timerCyc := rfl
@[simp] theorem State.setMem_timerStamp (m : Memory) : (s.setMem m).timerStamp = s.timerStamp := rfl
@[simp] theorem State.setMem_stopFlag (m : Memory) : (s.setMem m).stopFlag = s.stopFlag := rfl
@[simp] theorem State.setMem_line0 (m : Memory) : (s.setMem m).line0 = s.line0 := rfl
@[simp] theorem State.setMem_line1 (m : Memory) : (s.setMem m).line1 = s.line1 := rfl
@[simp] theorem State.setMem_shiftreg (m : Memory) : (s.setMem m).shiftreg = s.shiftreg := rfl
@[simp] theorem State.setMem_mem (m : Memory) : (s.setMem m).mem = m := rfl
@[simp] theorem State.setMem_ht (m : Memory) : (s.setMem m).ht = s.ht := rfl
@[simp] theorem State.setMem_timerCb (m : Memory) : (s.setMem m).timerCb = s.timerCb := rfl
@[simp] theorem State.setMem_intoutCb (m : Memory) : (s.setMem m).intoutCb = s.intoutCb := rfl
@[simp] theorem State.setMem_events (m : Memory) : (s.setMem m).events = s.events := rfl
@[simp] theorem State.setMem_draws (m : Memory) : (s.setMem m).draws = s.draws := rfl
@[simp] theorem State.setMem_inbox (m : Memory) : (s.setMem m).inbox = s.inbox := rfl
@[simp] theorem State.setMem_results (m : Memory) : (s.setMem m).results = s.results := rfl

@[simp] theorem State.setPixelshift_cfg (v : Fin 6) : (s.setPixelshift v).cfg = s.cfg := rfl
@[simp] theorem State.setPixelshift_x (v : Fin 6) : (s.setPixelshift v).x = s.x := rfl
@[simp] theorem State.setPixelshift_pc (v : Fin 6) : (s.setPixelshift v).pc = s.pc := rfl
@[simp] theorem State.setPixelshift_st (v : Fin 6) : (s.setPixelshift v).st = s.st := rfl
@[simp] theorem State.setPixelshift_io (v : Fin 6) : (s.setPixelshift v).io = s.io := rfl
@[simp] theorem State.setPixelshift_pixelshift (v : Fin 6) : (s.setPixelshift v).pixelshift = v := rfl
@[simp] theorem State.setPixelshift_ropSel (v : Fin 6) : (s.setPixelshift v).ropSel = s.ropSel := rfl
@[simp] theorem State.setPixelshift_icounter (v : Fin 6) : (s.setPixelshift v).icounter = s.icounter := rfl
@[simp] theorem State.setPixelshift_cyclesStart (v : Fin 6) : (s.setPixelshift v).cyclesStart = s.cyclesStart := rfl
@[simp] theorem State.setPixelshift_totalCycles (v : Fin 6) : (s.setPixelshift v).totalCycles = s.totalCycles := rfl
@[simp] theorem State.setPixelshift_inRun (v : Fin 6) : (s.setPixelshift v).inRun = s.inRun := rfl
@[simp] theorem State.setPixelshift_timerActive (v : Fin 6) : (s.setPixelshift v).timerActive = s.timerActive := rfl
@[simp] theorem State.setPixelshift_timerCyc (v : Fin 6) : (s.setPixelshift v).timerCyc = s.timerCyc := rfl
@[simp] theorem State.setPixelshift_timerStamp (v : Fin 6) : (s.setPixelshift v).timerStamp = s.timerStamp := rfl
@[simp] theorem State.setPixelshift_stopFlag (v : Fin 6) : (s.setPixelshift v).stopFlag = s.stopFlag := rfl
@[simp] theorem State.setPixelshift_line0 (v : Fin 6) : (s.setPixelshift v).line0 = s.line0 := rfl
@[simp] theorem State.setPixelshift_line1 (v : Fin 6) : (s.setPixelshift v).line1 = s.line1 := rfl
@[simp] theorem State.setPixelshift_shiftreg (v : Fin 6) : (s.setPixelshift v).shiftreg = s.shiftreg := rfl
@[simp] theorem State.setPixelshift_mem (v : Fin 6) : (s.setPixelshift v).mem = s.mem := rfl
@[simp] theorem State.setPixelshift_ht (v : Fin 6) : (s.setPixelshift v).ht = s.ht := rfl
@[simp] theorem State.setPixelshift_timerCb (v : Fin 6) : (s.setPixelshift v).timerCb = s.timerCb := rfl
@[simp] theorem State.setPixelshift_intoutCb (v : Fin 6) : (s.setPixelshift v).intoutCb = s.intoutCb := rfl
@[simp] theorem State.setPixelshift_events (v : Fin 6) : (s.setPixelshift v).events = s.events := rfl
@[simp] theorem State.setPixelshift_draws (v : Fin 6) : (s.setPixelshift v).draws = s.draws := rfl
@[simp] theorem State.setPixelshift_inbox (v : Fin 6) : (s.setPixelshift v).inbox = s.inbox := rfl
@[simp] theorem State.setPixelshift_results (v : Fin 6) : (s.setPixelshift v).results = s.results := rfl

@[simp] theorem State.setRopSel_cfg (v : Nat) : (s.setRopSel v).cfg = s.cfg := rfl
@[simp] theorem State.setRopSel_x (v : Nat) : (s.setRopSel v).x = s.x := rfl
@[simp] theorem State.setRopSel_pc (v : Nat) : (s.setRopSel v).pc = s.pc := rfl
@[simp] theorem State.setRopSel_st (v : Nat) : (s.setRopSel v).st = s.st := rfl
@[simp] theorem State.setRopSel_io (v : Nat) : (s.setRopSel v).io = s.io := rfl
@[simp] theorem State.setRopSel_pixelshift (v : Nat) : (s.setRopSel v).pixelshift = s.pixelshift := rfl
@[simp] theorem State.setRopSel_ropSel (v : Nat) : (s.setRopSel v).ropSel = v := rfl
@[simp] theorem State.setRopSel_icounter (v : Nat) : (s.setRopSel v).icounter = s.icounter := rfl
@[simp] theorem State.setRopSel_cyclesStart (v : Nat) : (s.setRopSel v).cyclesStart = s.cyclesStart := rfl
@[simp] theorem State.setRopSel_totalCycles (v : Nat) : (s.setRopSel v).totalCycles = s.totalCycles := rfl
@[simp] theorem State.setRopSel_inRun (v : Nat) : (s.setRopSel v).inRun = s.inRun := rfl
@[simp] theorem State.setRopSel_timerActive (v : Nat) : (s.setRopSel v).timerActive = s.timerActive := rfl
@[simp] theorem State.setRopSel_timerCyc (v : Nat) : (s.setRopSel v).timerCyc = s.timerCyc := rfl
@[simp] theorem State.setRopSel_timerStamp (v : Nat) : (s.setRopSel v).timerStamp = s.timerStamp := rfl
@[simp] theorem State.setRopSel_stopFlag (v : Nat) : (s.setRopSel v).stopFlag = s.stopFlag := rfl
@[simp] theorem State.setRopSel_line0 (v : Nat) : (s.setRopSel v).line0 = s.line0 := rfl
@[simp] theorem State.setRopSel_line1 (v : Nat) : (s.setRopSel v).line1 = s.line1 := rfl
@[simp] theorem State.setRopSel_shiftreg (v : Nat) : (s.setRopSel v).shiftreg = s.shiftreg := rfl
@[simp] theorem State.setRopSel_mem (v : Nat) : (s.setRopSel v).mem = s.mem := rfl
@[simp] theorem State.setRopSel_ht (v : Nat) : (s.setRopSel v).ht = s.ht := rfl
@[simp] theorem State.setRopSel_timerCb (v : Nat) : (s.setRopSel v).timerCb = s.timerCb := rfl
@[simp] theorem State.setRopSel_intoutCb (v : Nat) : (s.setRopSel v).intoutCb = s.intoutCb := rfl
@[simp] theorem State.setRopSel_events (v : Nat) : (s.setRopSel v).events = s.events := rfl
@[simp] theorem State.setRopSel_draws (v : Nat) : (s.setRopSel v).draws = s.draws := rfl
@[simp] theorem State.setRopSel_inbox (v : Nat) : (s.setRopSel v).inbox = s.inbox := rfl
@[simp] theorem State.setRopSel_results (v : Nat) : (s.setRopSel v).results = s.results := rfl

@[simp] theorem State.stop_cfg : s.stop.cfg = s.cfg := rfl
@[simp] theorem State.stop_x : s.stop.x = s.x := rfl
@[simp] theorem State.stop_pc : s.stop.pc = s.pc := rfl
@[simp] theorem State.stop_st : s.stop.st = s.st := rfl
@[simp] theorem State.stop_io : s.stop.io = s.io := rfl
@[simp] theorem State.stop_pixelshift : s.stop.pixelshift = s.pixelshift := rfl
@[simp] theorem State.stop_ropSel : s.stop.ropSel = s.ropSel := rfl
@[simp] theorem State.stop_icounter : s.stop.icounter = s.icounter := rfl
@[simp] theorem State.stop_cyclesStart : s.stop.cyclesStart = s.cyclesStart := rfl
@[simp] theorem State.stop_totalCycles : s.stop.totalCycles = s.totalCycles := rfl
@[simp] theorem State.stop_inRun : s.stop.inRun = s.inRun := rfl
@[simp] theorem State.stop_timerActive : s.stop.timerActive = s.timerActive := rfl
@[simp] theorem State.stop_timerCyc : s.stop.timerCyc = s.timerCyc := rfl
@[simp] theorem State.stop_timerStamp : s.stop.timerStamp = s.timerStamp := rfl
@[simp] theorem State.stop_stopFlag : s.stop.stopFlag = true := rfl
@[simp] theorem State.stop_line0 : s.stop.line0 = s.line0 := rfl
@[simp] theorem State.stop_line1 : s.stop.line1 = s.line1 := rfl
@[simp] theorem State.stop_shiftreg : s.stop.shiftreg = s.shiftreg := rfl
@[simp] theorem State.stop_mem : s.stop.mem = s.mem := rfl
@[simp] theorem State.stop_ht : s.stop.ht = s.ht := rfl
@[simp] theorem State.stop_timerCb : s.stop.timerCb = s.timerCb := rfl
@[simp] theorem State.stop_intoutCb : s.stop.intoutCb = s.intoutCb := rfl
@[simp] theorem State.stop_events : s.stop.events = s.events := rfl
@[simp] theorem State.stop_draws : s.stop.draws = s.draws := rfl
@[simp] theorem State.stop_inbox : s.stop.inbox = s.inbox := rfl
@[simp] theorem State.stop_results : s.stop.results = s.results := rfl

@[simp] theorem State.setLine0_cfg (v : LineLevel) : (s.setLine0 v).cfg = s.cfg := rfl
@[simp] theorem State.setLine0_x (v : LineLevel) : (s.setLine0 v).x = s.x := rfl
@[simp] theorem State.setLine0_pc (v : LineLevel) : (s.setLine0 v).pc = s.pc := rfl
@[simp] theorem State.setLine0_st (v : LineLevel) : (s.setLine0 v).st = s.st := rfl
@[simp] theorem State.setLine0_io (v : LineLevel) : (s.setLine0 v).io = s.io := rfl
@[simp] theorem State.setLine0_pixelshift (v : LineLevel) : (s.setLine0 v).pixelshift = s.pixelshift := rfl
@[simp] theorem State.setLine0_ropSel (v : LineLevel) : (s.setLine0 v).ropSel = s.ropSel := rfl
@[simp] theorem State.setLine0_icounter (v : LineLevel) : (s.setLine0 v).icounter = s.icounter := rfl
@[simp] theorem State.setLine0_cyclesStart (v : LineLevel) : (s.setLine0 v).cyclesStart = s.cyclesStart := rfl
@[simp] theorem State.setLine0_totalCycles (v : LineLevel) : (s.setLine0 v).totalCycles = s.totalCycles := rfl
@[simp] theorem State.setLine0_inRun (v : LineLevel) : (s.setLine0 v).inRun = s.inRun := rfl
@[simp] theorem State.setLine0_timerActive (v : LineLevel) : (s.setLine0 v).timerActive = s.timerActive := rfl
@[simp] theorem State.setLine0_timerCyc (v : LineLevel) : (s.setLine0 v).timerCyc = s.timerCyc := rfl
@[simp] theorem State.setLine0_timerStamp (v : LineLevel) : (s.setLine0 v).timerStamp = s.timerStamp := rfl
@[simp] theorem State.setLine0_stopFlag (v : LineLevel) : (s.setLine0 v).stopFlag = s.stopFlag := rfl
@[simp] theorem State.setLine0_line0 (v : LineLevel) : (s.setLine0 v).line0 = v := rfl
@[simp] theorem State.setLine0_line1 (v : LineLevel) : (s.setLine0 v).line1 = s.line1 := rfl
@[simp] theorem State.setLine0_shiftreg (v : LineLevel) : (s.setLine0 v).shiftreg = s.shiftreg := rfl
@[simp] theorem State.setLine0_mem (v : LineLevel) : (s.setLine0 v).mem = s.mem := rfl
@[simp] theorem State.setLine0_ht (v : LineLevel) : (s.setLine0 v).ht = s.ht := rfl
@[simp] theorem State.setLine0_timerCb (v : LineLevel) : (s.setLine0 v).timerCb = s.timerCb := rfl
@[simp] theorem State.setLine0_intoutCb (v : LineLevel) : (s.setLine0 v).intoutCb = s.intoutCb := rfl
@[simp] theorem State.setLine0_events (v : LineLevel) : (s.setLine0 v).events = s.events := rfl
@[simp] theorem State.setLine0_draws (v : LineLevel) : (s.setLine0 v).draws = s.draws := rfl
@[simp] theorem State.setLine0_inbox (v : LineLevel) : (s.setLine0 v).inbox = s.inbox := rfl
@[simp] theorem State.setLine0_results (v : LineLevel) : (s.setLine0 v).results = s.results := rfl

@[simp] theorem State.setLine1_cfg (v : LineLevel) : (s.setLine1 v).cfg = s.cfg := rfl
@[simp] theorem State.setLine1_x (v : LineLevel) : (s.setLine1 v).x = s.x := rfl
@[simp] theorem State.setLine1_pc (v : LineLevel) : (s.setLine1 v).pc = s.pc := rfl
@[simp] theorem State.setLine1_st (v : LineLevel) : (s.setLine1 v).st = s.st := rfl
@[simp] theorem State.setLine1_io (v : LineLevel) : (s.setLine1 v).io = s.io := rfl
@[simp] theorem State.setLine1_pixelshift (v : LineLevel) : (s.setLine1 v).pixelshift = s.pixelshift := rfl
@[simp] theorem State.setLine1_ropSel (v : LineLevel) : (s.setLine1 v).ropSel = s.ropSel := rfl
@[simp] theorem State.setLine1_icounter (v : LineLevel) : (s.setLine1 v).icounter = s.icounter := rfl
@[simp] theorem State.setLine1_cyclesStart (v : LineLevel) : (s.setLine1 v).cyclesStart = s.cyclesStart := rfl
@[simp] theorem State.setLine1_totalCycles (v : LineLevel) : (s.setLine1 v).totalCycles = s.totalCycles := rfl
@[simp] theorem State.setLine1_inRun (v : LineLevel) : (s.setLine1 v).inRun = s.inRun := rfl
@[simp] theorem State.setLine1_timerActive (v : LineLevel) : (s.setLine1 v).timerActive = s.timerActive := rfl
@[simp] theorem State.setLine1_timerCyc (v : LineLevel) : (s.setLine1 v).timerCyc = s.timerCyc := rfl
@[simp] theorem State.setLine1_timerStamp (v : LineLevel) : (s.setLine1 v).timerStamp = s.timerStamp := rfl
@[simp] theorem State.setLine1_stopFlag (v : LineLevel) : (s.setLine1 v).stopFlag = s.stopFlag := rfl
@[simp] theorem State.setLine1_line0 (v : LineLevel) : (s.setLine1 v).line0 = s.line0 := rfl
@[simp] theorem State.setLine1_line1 (v : LineLevel) : (s.setLine1 v).line1 = v := rfl
@[simp] theorem State.setLine1_shiftreg (v : LineLevel) : (s.setLine1 v).shiftreg = s.shiftreg := rfl
@[simp] theorem State.setLine1_mem (v : LineLevel) : (s.setLine1 v).mem = s.mem := rfl
@[simp] theorem State.setLine1_ht (v : LineLevel) : (s.setLine1 v).ht = s.ht := rfl
@[simp] theorem State.setLine1_timerCb (v : LineLevel) : (s.setLine1 v).timerCb = s.timerCb := rfl
@[simp] theorem State.setLine1_intoutCb (v : LineLevel) : (s.setLine1 v).intoutCb = s.intoutCb := rfl
@[simp] theorem State.setLine1_events (v : LineLevel) : (s.setLine1 v).events = s.events := rfl
@[simp] theorem State.setLine1_draws (v : LineLevel) : (s.setLine1 v).draws = s.draws := rfl
@[simp] theorem State.setLine1_inbox (v : LineLevel) : (s.setLine1 v).inbox = s.inbox := rfl
@[simp] theorem State.setLine1_results (v : LineLevel) : (s.setLine1 v).results = s.results := rfl

@[simp] theorem State.setTimer_cfg (active : Bool) (cyc : Int) : (s.setTimer active cyc).cfg = s.cfg := rfl
@[simp] theorem State.setTimer_x (active : Bool) (cyc : Int) : (s.setTimer active cyc).x = s.x := rfl
@[simp] theorem State.setTimer_pc (active : Bool) (cyc : Int) : (s.setTimer active cyc).pc = s.pc := rfl
@[simp] theorem State.setTimer_st (active : Bool) (cyc : Int) : (s.setTimer active cyc).st = s.st := rfl
@[simp] theorem State.setTimer_io (active : Bool) (cyc : Int) : (s.setTimer active cyc).io = s.io := rfl
@[simp] theorem State.setTimer_pixelshift (active : Bool) (cyc : Int) : (s.setTimer active cyc).pixelshift = s.pixelshift := rfl
@[simp] theorem State.setTimer_ropSel (active : Bool) (cyc : Int) : (s.setTimer active cyc).ropSel = s.ropSel := rfl
@[simp] theorem State.setTimer_icounter (active : Bool) (cyc : Int) : (s.setTimer active cyc).icounter = s.icounter := rfl
@[simp] theorem State.setTimer_cyclesStart (active : Bool) (cyc : Int) : (s.setTimer active cyc).cyclesStart = s.cyclesStart := rfl
@[simp] theorem State.setTimer_totalCycles (active : Bool) (cyc : Int) : (s.setTimer active cyc).totalCycles = s.totalCycles := rfl
@[simp] theorem State.setTimer_inRun (active : Bool) (cyc : Int) : (s.setTimer active cyc).inRun = s.inRun := rfl
@[simp] theorem State.setTimer_timerActive (active : Bool) (cyc : Int) : (s.setTimer active cyc).timerActive = active := rfl
@[simp] theorem State.setTimer_timerCyc (active : Bool) (cyc : Int) : (s.setTimer active cyc).timerCyc = cyc := rfl
@[simp] theorem State.setTimer_timerStamp (active : Bool) (cyc : Int) : (s.setTimer active cyc).timerStamp = s.timerStamp := rfl
@[simp] theorem State.setTimer_stopFlag (active : Bool) (cyc : Int) : (s.setTimer active cyc).stopFlag = s.stopFlag := rfl
@[simp] theorem State.setTimer_line0 (active : Bool) (cyc : Int) : (s.setTimer active cyc).line0 = s.line0 := rfl
@[simp] theorem State.setTimer_line1 (active : Bool) (cyc : Int) : (s.setTimer active cyc).line1 = s.line1 := rfl
@[simp] theorem State.setTimer_shiftreg (active : Bool) (cyc : Int) : (s.setTimer active cyc).shiftreg = s.shiftreg := rfl
@[simp] theorem State.setTimer_mem (active : Bool) (cyc : Int) : (s.setTimer active cyc).mem = s.mem := rfl
@[simp] theorem State.setTimer_ht (active : Bool) (cyc : Int) : (s.setTimer active cyc).ht = s.ht := rfl
@[simp] theorem State.setTimer_timerCb (active : Bool) (cyc : Int) : (s.setTimer active cyc).timerCb = s.timerCb := rfl
@[simp] theorem State.setTimer_intoutCb (active : Bool) (cyc : Int) : (s.setTimer active cyc).intoutCb = s.intoutCb := rfl
@[simp] theorem State.setTimer_events (active : Bool) (cyc : Int) : (s.setTimer active cyc).events = s.events := rfl
@[simp] theorem State.setTimer_draws (active : Bool) (cyc : Int) : (s.setTimer active cyc).draws = s.draws := rfl
@[simp] theorem State.setTimer_inbox (active : Bool) (cyc : Int) : (s.setTimer active cyc).inbox = s.inbox := rfl
@[simp] theorem State.setTimer_results (active : Bool) (cyc : Int) : (s.setTimer active cyc).results = s.results := rfl

@[simp] theorem State.setStamp_cfg (v : Nat) : (s.setStamp v).cfg = s.cfg := rfl
@[simp] theorem State.setStamp_x (v : Nat) : (s.setStamp v).x = s.x := rfl
@[simp] theorem State.setStamp_pc (v : Nat) : (s.setStamp v).pc = s.pc := rfl
@[simp] theorem State.setStamp_st (v : Nat) : (s.setStamp v).st = s.st := rfl
@[simp] theorem State.setStamp_io (v : Nat) : (s.setStamp v).io = s.io := rfl
@[simp] theorem State.setStamp_pixelshift (v : Nat) : (s.setStamp v).pixelshift = s.pixelshift := rfl
@[simp] theorem State.setStamp_ropSel (v : Nat) : (s.setStamp v).ropSel = s.ropSel := rfl
@[simp] theorem State.setStamp_icounter (v : Nat) : (s.setStamp v).icounter = s.icounter := rfl
@[simp] theorem State.setStamp_cyclesStart (v : Nat) : (s.setStamp v).cyclesStart = s.cyclesStart := rfl
@[simp] theorem State.setStamp_totalCycles (v : Nat) : (s.setStamp v).totalCycles = s.totalCycles := rfl
@[simp] theorem State.setStamp_inRun (v : Nat) : (s.setStamp v).inRun = s.inRun := rfl
@[simp] theorem State.setStamp_timerActive (v : Nat) : (s.setStamp v).timerActive = s.timerActive := rfl
@[simp] theorem State.setStamp_timerCyc (v : Nat) : (s.setStamp v).timerCyc = s.timerCyc := rfl
@[simp] theorem State.setStamp_timerStamp (v : Nat) : (s.setStamp v).timerStamp = v := rfl
@[simp] theorem State.setStamp_stopFlag (v : Nat) : (s.setStamp v).stopFlag = s.stopFlag := rfl
@[simp] theorem State.setStamp_line0 (v : Nat) : (s.setStamp v).line0 = s.line0 := rfl
@[simp] theorem State.setStamp_line1 (v : Nat) : (s.setStamp v).line1 = s.line1 := rfl
@[simp] theorem State.setStamp_shiftreg (v : Nat) : (s.setStamp v).shiftreg = s.shiftreg := rfl
@[simp] theorem State.setStamp_mem (v : Nat) : (s.setStamp v).mem = s.mem := rfl
@[simp] theorem State.setStamp_ht (v : Nat) : (s.setStamp v).ht = s.ht := rfl
@[simp] theorem State.setStamp_timerCb (v : Nat) : (s.setStamp v).timerCb = s.timerCb := rfl
@[simp] theorem State.setStamp_intoutCb (v : Nat) : (s.setStamp v).intoutCb = s.intoutCb := rfl
@[simp] theorem State.setStamp_events (v : Nat) : (s.setStamp v).events = s.events := rfl
@[simp] theorem State.setStamp_draws (v : Nat) : (s.setStamp v).draws = s.draws := rfl
@[simp] theorem State.setStamp_inbox (v : Nat) : (s.setStamp v).inbox = s.inbox := rfl
@[simp] theorem State.setStamp_results (v : Nat) : (s.setStamp v).results = s.results := rfl

@[simp] theorem State.setTimerCb_cfg (cb : Option Nat) : (s.setTimerCb cb).cfg = s.cfg := rfl
@[simp] theorem State.setTimerCb_x (cb : Option Nat) : (s.setTimerCb cb).x = s.x := rfl
@[simp] theorem State.setTimerCb_pc (cb : Option Nat) : (s.setTimerCb cb).pc = s.pc := rfl
@[simp] theorem State.setTimerCb_st (cb : Option Nat) : (s.setTimerCb cb).st = s.st := rfl
@[simp] theorem State.setTimerCb_io (cb : Option Nat) : (s.setTimerCb cb).io = s.io := rfl
@[simp] theorem State.setTimerCb_pixelshift (cb : Option Nat) : (s.setTimerCb cb).pixelshift = s.pixelshift := rfl
@[simp] theorem State.setTimerCb_ropSel (cb : Option Nat) : (s.setTimerCb cb).ropSel = s.ropSel := rfl
@[simp] theorem State.setTimerCb_icounter (cb : Option Nat) : (s.setTimerCb cb).icounter = s.icounter := rfl
@[simp] theorem State.setTimerCb_cyclesStart (cb : Option Nat) : (s.setTimerCb cb).cyclesStart = s.cyclesStart := rfl
@[simp] theorem State.setTimerCb_totalCycles (cb : Option Nat) : (s.setTimerCb cb).totalCycles = s.totalCycles := rfl
@[simp] theorem State.setTimerCb_inRun (cb : Option Nat) : (s.setTimerCb cb).inRun = s.inRun := rfl
@[simp] theorem State.setTimerCb_timerActive (cb : Option Nat) : (s.setTimerCb cb).timerActive = s.timerActive := rfl
@[simp] theorem State.setTimerCb_timerCyc (cb : Option Nat) : (s.setTimerCb cb).timerCyc = s.timerCyc := rfl
@[simp] theorem State.setTimerCb_timerStamp (cb : Option Nat) : (s.setTimerCb cb).timerStamp = s.timerStamp := rfl
@[simp] theorem State.setTimerCb_stopFlag (cb : Option Nat) : (s.setTimerCb cb).stopFlag = s.stopFlag := rfl
@[simp] theorem State.setTimerCb_line0 (cb : Option Nat) : (s.setTimerCb cb).line0 = s.line0 := rfl
@[simp] theorem State.setTimerCb_line1 (cb : Option Nat) : (s.setTimerCb cb).line1 = s.line1 := rfl
@[simp] theorem State.setTimerCb_shiftreg (cb : Option Nat) : (s.setTimerCb cb).shiftreg = s.shiftreg := rfl
@[simp] theorem State.setTimerCb_mem (cb : Option Nat) : (s.setTimerCb cb).mem = s.mem := rfl
@[simp] theorem State.setTimerCb_ht (cb : Option Nat) : (s.setTimerCb cb).ht = s.ht := rfl
@[simp] theorem State.setTimerCb_timerCb (cb : Option Nat) : (s.setTimerCb cb).timerCb = cb := rfl
@[simp] theorem State.setTimerCb_intoutCb (cb : Option Nat) : (s.setTimerCb cb).intoutCb = s.intoutCb := rfl
@[simp] theorem State.setTimerCb_events (cb : Option Nat) : (s.setTimerCb cb).events = s.events := rfl
@[simp] theorem State.setTimerCb_draws (cb : Option Nat) : (s.setTimerCb cb).draws = s.draws := rfl
@[simp] theorem State.setTimerCb_inbox (cb : Option Nat) : (s.setTimerCb cb).inbox = s.inbox := rfl
@[simp] theorem State.setTimerCb_results (cb : Option Nat) : (s.setTimerCb cb).results = s.results := rfl

@[simp] theorem State.setIntoutCb_cfg (cb : Option Nat) : (s.setIntoutCb cb).cfg = s.cfg := rfl
@[simp] theorem State.setIntoutCb_x (cb : Option Nat) : (s.setIntoutCb cb).x = s.x := rfl
@[simp] theorem State.setIntoutCb_pc (cb : Option Nat) : (s.setIntoutCb cb).pc = s.pc := rfl
@[simp] theorem State.setIntoutCb_st (cb : Option Nat) : (s.setIntoutCb cb).st = s.st := rfl
@[simp] theorem State.setIntoutCb_io (cb : Option Nat) : (s.setIntoutCb cb).io = s.io := rfl
@[simp] theorem State.setIntoutCb_pixelshift (cb : Option Nat) : (s.setIntoutCb cb).pixelshift = s.pixelshift := rfl
@[simp] theorem State.setIntoutCb_ropSel (cb : Option Nat) : (s.setIntoutCb cb).ropSel = s.ropSel := rfl
@[simp] theorem State.setIntoutCb_icounter (cb : Option Nat) : (s.setIntoutCb cb).icounter = s.icounter := rfl
@[simp] theorem State.setIntoutCb_cyclesStart (cb : Option Nat) : (s.setIntoutCb cb).cyclesStart = s.cyclesStart := rfl
@[simp] theorem State.setIntoutCb_totalCycles (cb : Option Nat) : (s.setIntoutCb cb).totalCycles = s.totalCycles := rfl
@[simp] theorem State.setIntoutCb_inRun (cb : Option Nat) : (s.setIntoutCb cb).inRun = s.inRun := rfl
@[simp] theorem State.setIntoutCb_timerActive (cb : Option Nat) : (s.setIntoutCb cb).timerActive = s.timerActive := rfl
@[simp] theorem State.setIntoutCb_timerCyc (cb : Option Nat) : (s.setIntoutCb cb).timerCyc = s.timerCyc := rfl
@[simp] theorem State.setIntoutCb_timerStamp (cb : Option Nat) : (s.setIntoutCb cb).timerStamp = s.timerStamp := rfl
@[simp] theorem State.setIntoutCb_stopFlag (cb : Option Nat) : (s.setIntoutCb cb).stopFlag = s.stopFlag := rfl
@[simp] theorem State.setIntoutCb_line0 (cb : Option Nat) : (s.setIntoutCb cb).line0 = s.line0 := rfl
@[simp] theorem State.setIntoutCb_line1 (cb : Option Nat) : (s.setIntoutCb cb).line1 = s.line1 := rfl
@[simp] theorem State.setIntoutCb_shiftreg (cb : Option Nat) : (s.setIntoutCb cb).shiftreg = s.shiftreg := rfl
@[simp] theorem State.setIntoutCb_mem (cb : Option Nat) : (s.setIntoutCb cb).mem = s.mem := rfl
@[simp] theorem State.setIntoutCb_ht (cb : Option Nat) : (s.setIntoutCb cb).ht = s.ht := rfl
@[simp] theorem State.setIntoutCb_timerCb (cb : Option Nat) : (s.setIntoutCb cb).timerCb = s.timerCb := rfl
@[simp] theorem State.setIntoutCb_intoutCb (cb : Option Nat) : (s.setIntoutCb cb).intoutCb = cb := rfl
@[simp] theorem State.setIntoutCb_events (cb : Option Nat) : (s.setIntoutCb cb).events = s.events := rfl
@[simp] theorem State.setIntoutCb_draws (cb : Option Nat) : (s.setIntoutCb cb).draws = s.draws := rfl
@[simp] theorem State.setIntoutCb_inbox (cb : Option Nat) : (s.setIntoutCb cb).inbox = s.inbox := rfl
@[simp] theorem State.setIntoutCb_results (cb : Option Nat) : (s.setIntoutCb cb).results = s.results := rfl

@[simp] theorem State.setBuffer_cfg (buf o : Nat) (v : Byte) : (s.setBuffer buf o v).cfg = s.cfg := rfl
@[simp] theorem State.setBuffer_x (buf o : Nat) (v : Byte) : (s.setBuffer buf o v).x = s.x := rfl
@[simp] theorem State.setBuffer_pc (buf o : Nat) (v : Byte) : (s.setBuffer buf o v).pc = s.pc := rfl
@[simp] theorem State.setBuffer_st (buf o : Nat) (v : Byte) : (s.setBuffer buf o v).st = s.st := rfl
@[simp] theorem State.setBuffer_io (buf o : Nat) (v : Byte) : (s.setBuffer buf o v).io = s.io := rfl
@[simp] theorem State.setBuffer_pixelshift (buf o : Nat) (v : Byte) : (s.setBuffer buf o v).pixelshift = s.pixelshift := rfl
@[simp] theorem State.setBuffer_ropSel (buf o : Nat) (v : Byte) : (s.setBuffer buf o v).ropSel = s.ropSel := rfl
@[simp] theorem State.setBuffer_icounter (buf o : Nat) (v : Byte) : (s.setBuffer buf o v).icounter = s.icounter := rfl
@[simp] theorem State.setBuffer_cyclesStart (buf o : Nat) (v : Byte) : (s.setBuffer buf o v).cyclesStart = s.cyclesStart := rfl
@[simp] theorem State.setBuffer_totalCycles (buf o : Nat) (v : Byte) : (s.setBuffer buf o v).totalCycles = s.totalCycles := rfl
@[simp] theorem State.setBuffer_inRun (buf o : Nat) (v : Byte) : (s.setBuffer buf o v).inRun = s.inRun := rfl
@[simp] theorem State.setBuffer_timerActive (buf o : Nat) (v : Byte) : (s.setBuffer buf o v).timerActive = s.timerActive := rfl
@[simp] theorem State.setBuffer_timerCyc (buf o : Nat) (v : Byte) : (s.setBuffer buf o v).timerCyc = s.timerCyc := rfl
@[simp] theorem State.setBuffer_timerStamp (buf o : Nat) (v : Byte) : (s.setBuffer buf o v).timerStamp = s.timerStamp := rfl
@[simp] theorem State.setBuffer_stopFlag (buf o : Nat) (v : Byte) : (s.setBuffer buf o v).stopFlag = s.stopFlag := rfl
@[simp] theorem State.setBuffer_line0 (buf o : Nat) (v : Byte) : (s.setBuffer buf o v).line0 = s.line0 := rfl
@[simp] theorem State.setBuffer_line1 (buf o : Nat) (v : Byte) : (s.setBuffer buf o v).line1 = s.line1 := rfl
@[simp] theorem State.setBuffer_shiftreg (buf o : Nat) (v : Byte) : (s.setBuffer buf o v).shiftreg = s.shiftreg := rfl
@[simp] theorem State.setBuffer_mem (buf o : Nat) (v : Byte) : (s.setBuffer buf o v).mem = s.mem.setByte buf o v := rfl
@[simp] theorem State.setBuffer_ht (buf o : Nat) (v : Byte) : (s.setBuffer buf o v).ht = s.ht := rfl
@[simp] theorem State.setBuffer_timerCb (buf o : Nat) (v : Byte) : (s.setBuffer buf o v).timerCb = s.timerCb := rfl
@[simp] theorem State.setBuffer_intoutCb (buf o : Nat) (v : Byte) : (s.setBuffer buf o v).intoutCb = s.intoutCb := rfl
@[simp] theorem State.setBuffer_events (buf o : Nat) (v : Byte) : (s.setBuffer buf o v).events = s.events := rfl
@[simp] theorem State.setBuffer_draws (buf o : Nat) (v : Byte) : (s.setBuffer buf o v).draws = s.draws := rfl
@[simp] theorem State.setBuffer_inbox (buf o : Nat) (v : Byte) : (s.setBuffer buf o v).inbox = s.inbox := rfl
@[simp] theorem State.setBuffer_results (buf o : Nat) (v : Byte) : (s.setBuffer buf o v).results = s.results := rfl

end Sys2Proof.Machine
end

