-- ==== Sys2Proof/Laws/Bus.lean ====
section
/-! SUPPORT. What a bus access can do: one lemma per primitive, cited instead of unfolding it. -/

namespace Sys2Proof.Machine

theorem State.OnlyBusEffects.refl (s : State) : s.OnlyBusEffects s := by constructor <;> intros <;> rfl

theorem State.OnlyBusEffects.trans {s t u : State} (h : s.OnlyBusEffects t) (k : t.OnlyBusEffects u) :
    s.OnlyBusEffects u where
  cfg := k.cfg.trans h.cfg
  x := k.x.trans h.x
  pc := k.pc.trans h.pc
  st := k.st.trans h.st
  io i hi := (k.io i (by rw [h.cfg]; exact hi)).trans (h.io i hi)
  intpend j hj h1 h2 := by
    have := k.intpend j hj (by rw [h.cfg]; exact h1) (by rw [h.cfg]; exact h2)
    rw [h.cfg] at this
    exact this.trans (h.intpend j hj h1 h2)
  pixelshift := k.pixelshift.trans h.pixelshift
  ropSel := k.ropSel.trans h.ropSel
  icounter := k.icounter.trans h.icounter
  cyclesStart := k.cyclesStart.trans h.cyclesStart
  totalCycles := k.totalCycles.trans h.totalCycles
  inRun := k.inRun.trans h.inRun
  timerActive := k.timerActive.trans h.timerActive
  timerCyc := k.timerCyc.trans h.timerCyc
  timerStamp := k.timerStamp.trans h.timerStamp
  shiftreg := k.shiftreg.trans h.shiftreg
  bytes := k.bytes.trans h.bytes
  ht := k.ht.trans h.ht
  timerCb := k.timerCb.trans h.timerCb
  intoutCb := k.intoutCb.trans h.intoutCb
  inbox := k.inbox.trans h.inbox
  results := k.results.trans h.results

/-- Reading a bank register after a plain store. -/
theorem State.ioAt_setIo (s : State) (i j : Fin 64) (v : Word16) :
    (s.setIo i v).ioAt j = if j = i then v else s.ioAt j := by
  unfold State.ioAt State.setIo
  by_cases h : j = i
  · subst h; simp
  · have : i.val ≠ j.val := fun e => h (Fin.ext e.symm)
    simp [h, this]

/-- Reading a slot of the register file after a write. -/
theorem State.xAt_setX (s : State) (i j : Fin 31) (v : Word32) :
    (s.setX i v).xAt j = if j = i then v else s.xAt j := by
  unfold State.xAt State.setX
  by_cases h : j = i
  · subst h; simp
  · have : i.val ≠ j.val := fun e => h (Fin.ext e.symm)
    simp [h, this]

theorem State.emit_onlyBus (s : State) (e : Event) : s.OnlyBusEffects (s.emit e) := by
  constructor <;> intros <;> rfl

theorem State.tick_onlyBus (s : State) : s.OnlyBusEffects s.tick := by constructor <;> intros <;> rfl

/-- A memory that keeps the buffers is a bus effect. -/
theorem State.setMem_onlyBus (s : State) (m : Memory) (h : m.bufs = s.mem.bufs) : s.OnlyBusEffects (s.setMem m) := by
  constructor <;> intros <;> first | rfl | exact h

/-- An external line and its pending bit are a bus effect. -/
theorem State.setPending_onlyBus (s : State) (bit : Fin 16) (b : Bool) (h : bit = s.cfg.bitInt1 ∨ bit = s.cfg.bitInt2) :
    s.OnlyBusEffects (s.setPending bit b) := by
  constructor
  case io =>
    intro i hi
    simp [State.setPending, State.ioAt_setIo, hi]
  case intpend =>
    intro j hj h1 h2
    simp only [State.setPending, State.ioAt_setIo, if_true]
    rw [setBit16_getLsbD _ _ _ _ hj]
    rcases h with rfl | rfl <;> simp [h1, h2]
  all_goals rfl

theorem State.setIrqLine_onlyBus (s : State) (line : Int) (level : LineLevel) :
    s.OnlyBusEffects (s.setIrqLine line level).2 := by
  unfold State.setIrqLine
  split
  · exact (s.setPending_onlyBus _ _ (.inl rfl)).trans (by constructor <;> intros <;> rfl)
  · split
    · exact (s.setPending_onlyBus _ _ (.inr rfl)).trans (by constructor <;> intros <;> rfl)
    · exact .refl s

theorem State.applyAction_onlyBus (s : State) (act : BusAction) : s.OnlyBusEffects (s.applyAction act) := by
  cases act with
  | mapMemory buf start stop dir => exact s.setMem_onlyBus _ (by simp)
  | mapHandler id start stop dir => exact s.setMem_onlyBus _ (by simp)
  | setIrqLine line level => exact s.setIrqLine_onlyBus line level
  | stop => constructor <;> intros <;> rfl

theorem State.applyActions_onlyBus (acts : List BusAction) (s : State) : s.OnlyBusEffects (s.applyActions acts) := by
  induction acts generalizing s with
  | nil => exact .refl s
  | cons act acts ih => exact (s.applyAction_onlyBus act).trans (ih _)

/-- A read served by a handler slot changes only what bus handlers can touch. -/
theorem State.handlerRead_onlyBus (s : State) (id : Nat) (a : Addr) (n : BusWidth) :
    s.OnlyBusEffects (s.handlerRead id a n).2 := by
  have h : s.OnlyBusEffects (s.callReadFn id a n).2.2 := by
    unfold State.callReadFn
    split
    · exact .refl s
    · exact .refl s
    · exact s.tick_onlyBus
  exact h.trans ((State.emit_onlyBus _ _).trans (State.applyActions_onlyBus _ _))

/-- `MemRead(A, 8)` changes only what bus handlers can touch. -/
theorem State.memRead8_onlyBus (s : State) (a : Addr) : s.OnlyBusEffects (s.memRead8 a).2 := by
  unfold State.memRead8
  split
  · exact .refl s
  · exact s.handlerRead_onlyBus _ _ _

/-- `MemRead(A, 16)` changes only what bus handlers can touch. -/
theorem State.memRead16_onlyBus (s : State) (a : Addr) : s.OnlyBusEffects (s.memRead16 a).2 := by
  unfold State.memRead16
  simp only
  split
  · exact .refl s
  · exact s.handlerRead_onlyBus _ _ _

/-- `MemRead(A, 32)` changes only what bus handlers can touch. -/
theorem State.memReadHalves_onlyBus (s : State) (a : Addr) : s.OnlyBusEffects (s.memReadHalves a).2.2 :=
  (s.memRead16_onlyBus _).trans (State.memRead16_onlyBus _ _)

/-- `MemRead(A, 32)` changes only what bus handlers can touch. -/
theorem State.memRead32_onlyBus (s : State) (a : Addr) : s.OnlyBusEffects (s.memRead32 a).2 := s.memReadHalves_onlyBus a

/-- A 16-bit read of a direct page gives the word and changes nothing. -/
theorem State.memRead16_of_peek (s : State) (a : Addr) (v : Word16) (h : s.peek16 a = some v) :
    s.memRead16 a = (v, s) := by
  unfold State.peek16 at h
  unfold State.memRead16
  simp only
  split at h <;> simp_all

/-- Aligning twice is aligning once. -/
@[simp] theorem alignDown_alignDown (a : Addr) : alignDown (alignDown a) = alignDown a := by
  unfold alignDown; rw [BitVec.and_assoc]; rfl

/-- The next word of an aligned address is aligned. -/
@[simp] theorem alignDown_next (a : Addr) : alignDown (alignDown a + 16#32) = alignDown a + 16#32 := by
  unfold alignDown
  apply BitVec.eq_of_toNat_eq
  have key : ∀ x : BitVec 32, (x &&& 0xFFFFFFF0#32).toNat = x.toNat / 16 * 16 := by
    intro x
    have h : x &&& 0xFFFFFFF0#32 = (x >>> 4) <<< 4 := by
      apply BitVec.eq_of_getLsbD_eq
      intro i hi
      have : i < 32 := hi
      simp only [BitVec.getLsbD_and, BitVec.getLsbD_shiftLeft, BitVec.getLsbD_ushiftRight]
      interval_cases i <;> simp [BitVec.getLsbD_eq_getElem]
    rw [h, BitVec.toNat_shiftLeft, BitVec.toNat_ushiftRight, Nat.shiftLeft_eq, Nat.shiftRight_eq_div_pow]
    have := x.isLt
    omega
  rw [key, BitVec.toNat_add, key]
  have := a.isLt
  simp
  omega

/-- A 32-bit read of two direct pages gives the value and changes nothing. -/
theorem State.memRead32_of_peek (s : State) (a : Addr) (v : Word32) (h : s.peek32 a = some v) :
    s.memRead32 a = (v, s) := by
  unfold State.peek32 at h
  split at h
  · rename_i first second h1 h2
    simp only [State.memRead32, State.memReadHalves, s.memRead16_of_peek _ _ h1, s.memRead16_of_peek _ _ h2]
    simp_all
  · simp at h

end Sys2Proof.Machine
end

