-- ==== Sys2Proof/Laws/Encoding.lean ====
section
/-! SUPPORT. The parts of instruction words: joining and splitting bytes, halves and opcode fields. -/

namespace Sys2Proof

open Sys2Proof.Machine

/-- A word laid out in its byte order is read back. -/
@[simp] theorem takeWord_wordBytes (w : Word16) (rest : List Byte) :
    takeWord (wordBytes w ++ rest) = some (w, rest) := by
  simp [wordBytes, takeWord, bytes_of_word]

/-- The halves of a concatenation. -/
theorem high_append {m n : Nat} (a : BitVec m) (b : BitVec n) : (a ++ b).extractLsb' n m = a := by
  apply BitVec.eq_of_getLsbD_eq
  intro i hi
  rw [BitVec.getLsbD_extractLsb', BitVec.getLsbD_append]
  simp [hi]

/-- The halves of a concatenation. -/
theorem low_append {m n : Nat} (a : BitVec m) (b : BitVec n) : (a ++ b).extractLsb' 0 n = b := by
  apply BitVec.eq_of_getLsbD_eq
  intro i hi
  rw [BitVec.getLsbD_extractLsb', BitVec.getLsbD_append]
  simp [hi]

/-- A value is its two halves. -/
theorem append_halves {m n : Nat} (v : BitVec (m + n)) : v.extractLsb' n m ++ v.extractLsb' 0 n = v := by
  apply BitVec.eq_of_getLsbD_eq
  intro i hi
  rw [BitVec.getLsbD_append]
  by_cases h : i < n
  · simp [h]
  · have h2 : i - n < m := by omega
    have h3 : n + (i - n) = i := by omega
    simp [h, h2, h3]

/-- A word that was read is the bytes in front. -/
theorem takeWord_eq_some {bytes rest : List Byte} {w : Word16} (h : takeWord bytes = some (w, rest)) :
    bytes = wordBytes w ++ rest := by
  unfold takeWord at h
  split at h
  · cases h
    simp only [wordBytes, List.cons_append, List.nil_append]
    rw [high_append (m := 8) (n := 8), low_append (m := 8) (n := 8)]
  · cases h

@[simp] theorem thIndex_append (k : BitVec 12) (n : RegNo) : thIndex (k ++ n) = k.toNat := by
  unfold thIndex
  rw [BitVec.toNat_append, Nat.shiftLeft_eq, Nat.mul_comm, ← Nat.two_pow_add_eq_or_of_lt n.isLt]
  have := n.isLt
  omega

@[simp] theorem thReg_append (k : BitVec 12) (n : RegNo) : thReg (k ++ n) = n := low_append k n

/-- An opcode word is its handler index and its register field. -/
theorem thIndex_append_thReg (w : Word16) : BitVec.ofNat 12 (thIndex w) ++ thReg w = w := by
  have h : BitVec.ofNat 12 (thIndex w) = w.extractLsb' 4 12 := by
    apply BitVec.eq_of_toNat_eq
    simp [thIndex, Nat.shiftRight_eq_div_pow]
  rw [h]
  exact append_halves (m := 12) (n := 4) w

@[simp] theorem joinHalves_halves (ord : Word32Order) (v : Word32) :
    joinHalves ord (firstHalf ord v) (secondHalf ord v) = v := by
  cases ord <;> exact append_halves (m := 16) (n := 16) v

@[simp] theorem firstHalf_joinHalves (ord : Word32Order) (a b : Word16) : firstHalf ord (joinHalves ord a b) = a := by
  cases ord
  · exact low_append b a
  · exact high_append a b

@[simp] theorem secondHalf_joinHalves (ord : Word32Order) (a b : Word16) : secondHalf ord (joinHalves ord a b) = b := by
  cases ord
  · exact high_append b a
  · exact low_append a b

/-- An unassigned index has no operand words. -/
theorem thOperandWords_unassigned {w : Word16} (h : 13 ≤ thIndex w) : thOperandWords w = 0 := by
  unfold thOperandWords
  split <;> omega

/-- A word of an unassigned index is the generic dispatch. -/
theorem decodeTh_unassigned {w : Word16} (h : 13 ≤ thIndex w) (ord : Word32Order) (a b : Word16) :
    decodeTh ord w a b = .dispatch w := by
  unfold decodeTh
  split <;> first | omega | rfl

/-- No format has more than two operand words. -/
theorem operandWords_le (hs : HandlerSet) (w : Word16) : operandWords hs w ≤ 2 := by
  unfold operandWords thOperandWords
  split
  · split <;> omega
  · omega

end Sys2Proof
end

