-- ==== Sys2Proof/Laws/Access.lean ====
section
/-! SUPPORT. What an access answers on each kind of page: memory, the open bus, the I/O bank. -/

namespace Sys2Proof.Machine

/-- What a read finds depends on the memory and the parameters alone. -/
theorem State.peek16_congr {s t : State} (h : t.mem = s.mem) (hc : t.cfg = s.cfg) (a : Addr) :
    t.peek16 a = s.peek16 a := by
  unfold State.peek16; rw [h, hc]

/-- What a read finds depends on the memory and the parameters alone. -/
theorem State.peek32_congr {s t : State} (h : t.mem = s.mem) (hc : t.cfg = s.cfg) (a : Addr) :
    t.peek32 a = s.peek32 a := by
  unfold State.peek32; rw [State.peek16_congr h hc, State.peek16_congr h hc, hc]

/-- The aligned address finds the same word. -/
@[simp] theorem State.peek16_alignDown (s : State) (a : Addr) : s.peek16 (alignDown a) = s.peek16 a := by
  unfold State.peek16; rw [alignDown_alignDown]

/-- The aligned address finds the same value. -/
@[simp] theorem State.peek32_alignDown (s : State) (a : Addr) : s.peek32 (alignDown a) = s.peek32 a := by
  unfold State.peek32; rw [alignDown_alignDown]

/-- The aligned address reads the same word. -/
@[simp] theorem State.memRead16_alignDown (s : State) (a : Addr) : s.memRead16 (alignDown a) = s.memRead16 a := by
  unfold State.memRead16; simp

/-- The aligned address is stored to in the same way. -/
@[simp] theorem State.memWrite16_alignDown (s : State) (a : Addr) (v : Word16) :
    s.memWrite16 (alignDown a) v = s.memWrite16 a v := by
  unfold State.memWrite16; simp

/-- A 32-bit value is found where its halves are. -/
theorem State.peek32_of_halves {s : State} {a : Addr} {v w : Word16} (h : s.peek16 a = some v)
    (k : s.peek16 (alignDown a + 16#32) = some w) : s.peek32 a = some (joinHalves s.cfg.word32Order v w) := by
  unfold State.peek32; rw [State.peek16_alignDown, h, k]

/-- Both halves of a value that is read are found. -/
theorem State.memReadHalves_of_peek (s : State) (a : Addr) (v w : Word16) (h : s.peek16 a = some v)
    (k : s.peek16 (alignDown a + 16#32) = some w) : s.memReadHalves a = (v, w, s) := by
  unfold State.memReadHalves
  rw [State.memRead16_alignDown, s.memRead16_of_peek a v h]
  simp only
  rw [s.memRead16_of_peek _ w k]

/-- A 16-bit read of the open bus. -/
theorem State.memRead16_openRead (s : State) (a : Addr) (h : s.openRead a) :
    s.memRead16 a = (0xFFFF#16, s.emit (.handlerRead 0 (alignDown a) .w16 0xFFFF#16)) := by
  unfold State.memRead16 State.handlerRead State.callReadFn
  simp [h.1, h.2, allOnes, State.applyActions]

/-- A 16-bit read of the I/O bank. -/
theorem State.memRead16_bankRead (s : State) (id : Nat) (a : Addr) (h : s.bankRead id a) :
    s.memRead16 a = (s.readRegister (alignDown a),
      s.emit (.handlerRead id (alignDown a) .w16 (s.readRegister (alignDown a)))) := by
  unfold State.memRead16 State.handlerRead State.callReadFn
  simp [h.1, h.2, State.ioBankRead, State.applyActions]

/-- A 16-bit write to memory. -/
theorem State.memWrite16_storePlace (s : State) (a : Addr) (v : Word16) (p : Nat × Nat) (h : s.storePlace a = some p) :
    s.memWrite16 a v = .next (s.setMem (s.mem.setWord p.1 p.2 v)) := by
  unfold State.storePlace at h
  unfold State.memWrite16
  split at h
  · rename_i buf off he
    cases h
    simp [he]
  · cases h

/-- A 16-bit write to the open bus. -/
theorem State.memWrite16_openWrite (s : State) (a : Addr) (v : Word16) (h : s.openWrite a) :
    s.memWrite16 a v = .next (s.emit (.handlerWrite 0 (alignDown a) v)) := by
  unfold State.memWrite16 State.handlerWrite
  simp [h.1, h.2]

/-- A 16-bit write to the I/O bank. -/
theorem State.memWrite16_bankWrite (s : State) (id : Nat) (a : Addr) (v : Word16) (h : s.bankWrite id a) :
    s.memWrite16 a v = (s.emit (.handlerWrite id (alignDown a) v)).writeRegister refuseRun (alignDown a) v := by
  unfold State.memWrite16 State.handlerWrite
  simp [h.1, h.2]

/-- Aligning in numbers. -/
theorem alignDown_toNat (a : Addr) : (alignDown a).toNat = a.toNat / 16 * 16 := by
  have h : alignDown a = (a >>> 4) <<< 4 := by
    unfold alignDown
    apply BitVec.eq_of_getLsbD_eq
    intro i hi
    have : i < 32 := hi
    simp only [BitVec.getLsbD_and, BitVec.getLsbD_shiftLeft, BitVec.getLsbD_ushiftRight]
    interval_cases i <;> simp [BitVec.getLsbD_eq_getElem]
  rw [h, BitVec.toNat_shiftLeft, BitVec.toNat_ushiftRight, Nat.shiftLeft_eq, Nat.shiftRight_eq_div_pow]
  have := a.isLt
  omega

/-- A direct page entry of a canonical memory names a whole block of its buffer. -/
theorem Memory.wf.read_block {m : Memory} {c : Params} (h : m.wf c) {a : Addr} {buf off : Nat}
    (he : m.readEntry c a = .memory buf off) : off % c.pageBytes = 0 ∧ off + c.pageBytes ≤ m.bufLen buf := by
  unfold Memory.readEntry at he
  have hd : sparseGet unmapped m.rmap (page c a) ≠ unmapped := by rw [he]; exact fun e => by cases e
  have := (h.1.2 _ (mem_of_sparseGet hd)).2
  rw [he] at this
  exact of_decide_eq_true this

/-- A direct page entry of a canonical memory names a whole block of its buffer. -/
theorem Memory.wf.write_block {m : Memory} {c : Params} (h : m.wf c) {a : Addr} {buf off : Nat}
    (he : m.writeEntry c a = .memory buf off) : off % c.pageBytes = 0 ∧ off + c.pageBytes ≤ m.bufLen buf := by
  unfold Memory.writeEntry at he
  have hd : sparseGet unmapped m.wmap (page c a) ≠ unmapped := by rw [he]; exact fun e => by cases e
  have := (h.2.1.2 _ (mem_of_sparseGet hd)).2
  rw [he] at this
  exact of_decide_eq_true this

/-- The offset in the page of an aligned address, in numbers. -/
theorem pageOffset_alignDown (c : Params) (a : Addr) :
    pageOffset c (alignDown a) = a.toNat / 16 * 2 % c.pageBytes := by
  unfold pageOffset byteAddr
  rw [alignDown_toNat]
  congr 1
  omega

/-- A word at an aligned address lies in one page. -/
theorem pageOffset_alignDown_lt {c : Params} (h : c.pagesOk) (a : Addr) :
    pageOffset c (alignDown a) + 1 < c.pageBytes := by
  rw [pageOffset_alignDown]
  have h1 := Nat.mod_lt (a.toNat / 16 * 2) (pagesOk_pos h)
  have h2 : a.toNat / 16 * 2 % c.pageBytes % 2 = 0 := by
    rw [Nat.mod_mod_of_dvd _ (Nat.dvd_of_mod_eq_zero (by have := h.1; omega))]
    exact Nat.mul_mod_left _ _
  have := h.1
  omega

/-- Where the two bytes of a 16-bit write to memory lie: at an even offset inside the buffer. -/
theorem State.storePlace_bounds {s : State} (hc : s.cfg.pagesOk) (h : s.mem.wf s.cfg) {a : Addr} {p : Nat × Nat}
    (hp : s.storePlace a = some p) :
    p.2 % s.cfg.pageBytes = a.toNat / 16 * 2 % s.cfg.pageBytes ∧ p.2 + 1 < s.mem.bufLen p.1 := by
  unfold State.storePlace at hp
  split at hp
  · rename_i buf off he
    cases hp
    obtain ⟨h1, h2⟩ := h.write_block he
    have h3 := pageOffset_alignDown_lt hc a
    constructor
    · simp only [pageOffset_alignDown]
      rw [Nat.add_mod, h1, Nat.zero_add, Nat.mod_mod, Nat.mod_mod]
    · simp only; omega
  · cases hp

end Sys2Proof.Machine
end

