-- ==== Sys2Proof/Laws/Closure.lean ====
section
/-! SUPPORT. A relation between states that every primitive update keeps is kept by every operation of the core, by
every callback, by every instruction and by every iteration of the loop. An invariant is one such relation. -/

namespace Sys2Proof.Machine

/-- `R` holds from each state to the state after each primitive update. -/
structure Closed (R : State → State → Prop) : Prop where
  refl : ∀ s, R s s
  trans : ∀ s t u, R s t → R t u → R s u
  setX : ∀ s i v, R s (s.setX i v)
  setPc : ∀ s v, R s (s.setPc v)
  setSt : ∀ s v, R s (s.setSt v)
  setIcounter : ∀ s v, R s (s.setIcounter v)
  emit : ∀ s e, R s (s.emit e)
  tick : ∀ s, R s s.tick
  stop : ∀ s, R s s.stop
  mapMemory : ∀ s buf start stop dir, R s (s.mapMemory buf start stop dir).2
  mapHandler : ∀ s id start stop dir, R s (s.mapHandler id start stop dir).2
  setWord : ∀ s buf o v, R s (s.setMem (s.mem.setWord buf o v))
  setBuffer : ∀ s buf o v, R s (s.setBuffer buf o v)
  setHandler : ∀ s id rd wr, R s (s.setHandler id rd wr).2
  setIrqLine : ∀ s line level, R s (s.setIrqLine line level).2
  setPending : ∀ s bit, bit = s.cfg.bitHi ∨ bit = s.cfg.bitDi ∨ bit = s.cfg.bitWv → R s (s.setPending bit true)
  holdClear0 : ∀ s source, R s (s.holdClear0 source)
  holdClear1 : ∀ s source, R s (s.holdClear1 source)
  storePsize : ∀ s v, R s (s.setIo s.cfg.ioIndex.psize v).recomputePixelshift
  storeControl : ∀ s v, R s (s.setIo s.cfg.ioIndex.control v).recomputeRopSel
  storeHstctlh : ∀ s v, R s (s.setIo s.cfg.ioIndex.hstctlh v)
  storeHstctll : ∀ s v, R s (s.setIo s.cfg.ioIndex.hstctll v)
  storeVcount : ∀ s v, R s (s.setIo s.cfg.ioIndex.vcount v)
  storeDpyadr : ∀ s v, R s (s.setIo s.cfg.ioIndex.dpyadr v)
  storeIntpend : ∀ s v, R s ((s.setIo s.cfg.ioIndex.intpend v).setIo s.cfg.ioIndex.intpend
    (intpendAfterWrite s.cfg (s.ioAt s.cfg.ioIndex.intpend) v))
  storeRaw : ∀ s i v, i ≠ s.cfg.ioIndex.psize → i ≠ s.cfg.ioIndex.control → i ≠ s.cfg.ioIndex.intpend → R s (s.setIo i v)
  setTimer : ∀ s active cyc, R s (s.setTimer active cyc)
  setStamp : ∀ s v, R s (s.setStamp v)
  setTimerCb : ∀ s cb, R s (s.setTimerCb cb)
  setIntoutCb : ∀ s cb, R s (s.setIntoutCb cb)
  setShiftreg : ∀ (s : State) i v, R s { s with shiftreg := s.shiftreg.set i v }
  zeroed : ∀ s : State, s.inRun = false → R s s.zeroed.recomputePixelshift.recomputeRopSel
  restore : ∀ s src f, s.inRun = false → readSaved s.cfg src = some f → R s (s.restore f)
  nestedRun : ∀ s t budget, s.inRun = false → R (s.startRun budget) t → R s t.endRun

/-- Every next state of `o` is related to `s`. -/
def Leads (R : State → State → Prop) (s : State) (o : Result State) : Prop := ∀ t, o = .next t → R s t

variable {R : State → State → Prop}

theorem Leads.next {s t : State} (h : R s t) : Leads R s (.next t) := by rintro u ⟨⟩; exact h

theorem Leads.andThen {s : State} {o : Result State} {f : State → Result State} (hR : Closed R) (ho : Leads R s o)
    (hf : ∀ t, Leads R t (f t)) : Leads R s (andThen o f) := by
  intro u hu
  obtain ⟨t, h1, h2⟩ := andThen_eq_next.1 hu
  exact hR.trans _ _ _ (ho t h1) (hf t u h2)

theorem Leads.trans {s t : State} {o : Result State} (hR : Closed R) (h : R s t) (ho : Leads R t o) : Leads R s o :=
  fun u hu => hR.trans _ _ _ h (ho u hu)

theorem Closed.charge (hR : Closed R) (s : State) (c : Nat) : R s (s.charge c) := hR.setIcounter s (s.icounter - c)

theorem Closed.applyActions (hR : Closed R) (acts : List BusAction) (s : State) : R s (s.applyActions acts) := by
  induction acts generalizing s with
  | nil => exact hR.refl s
  | cons act acts ih =>
    refine hR.trans _ _ _ ?_ (ih _)
    cases act with
    | mapMemory buf start stop dir => exact hR.mapMemory s _ _ _ _
    | mapHandler id start stop dir => exact hR.mapHandler s _ _ _ _
    | setIrqLine line level => exact hR.setIrqLine s _ _
    | stop => exact hR.stop s

theorem Closed.handlerRead (hR : Closed R) (s : State) (id : Nat) (a : Addr) (n : BusWidth) :
    R s (s.handlerRead id a n).2 := by
  have h : R s (s.callReadFn id a n).2.2 := by
    unfold State.callReadFn
    split
    · exact hR.refl s
    · exact hR.refl s
    · exact hR.tick s
  exact hR.trans _ _ _ h (hR.trans _ _ _ (hR.emit _ _) (hR.applyActions _ _))

theorem Closed.memRead8 (hR : Closed R) (s : State) (a : Addr) : R s (s.memRead8 a).2 := by
  unfold State.memRead8
  split
  · exact hR.refl s
  · exact hR.handlerRead s _ _ _

theorem Closed.memRead16 (hR : Closed R) (s : State) (a : Addr) : R s (s.memRead16 a).2 := by
  unfold State.memRead16
  simp only
  split
  · exact hR.refl s
  · exact hR.handlerRead s _ _ _

theorem Closed.memReadHalves (hR : Closed R) (s : State) (a : Addr) : R s (s.memReadHalves a).2.2 :=
  hR.trans _ _ _ (hR.memRead16 _ _) (hR.memRead16 _ _)

theorem Closed.memRead32 (hR : Closed R) (s : State) (a : Addr) : R s (s.memRead32 a).2 := hR.memReadHalves s a

/-- A register write leads where its callback leads. -/
theorem Closed.writeRegisterWith (hR : Closed R) (call : Nat → State → Result State)
    (hc : ∀ cb s, Leads R s (call cb s)) (s : State) (a : Addr) (v : Word16) :
    Leads R s (s.writeRegisterWith call a v) := by
  unfold State.writeRegisterWith
  simp only
  split
  · rename_i h; rw [h]; exact .next (hR.storePsize s v)
  · split
    · rename_i h; rw [h]; exact .next (hR.storeControl s v)
    · split
      · rename_i h; rw [h]
        refine .next (hR.trans _ _ _ (hR.storeHstctlh s v) ?_)
        unfold State.hstctlhWritten
        split
        · exact hR.setIcounter _ _
        · exact hR.refl _
      · split
        · rename_i h; rw [h]
          refine Leads.trans hR (hR.storeHstctll s v) (Leads.andThen hR ?_ fun t => .next ?_)
          · split
            · refine Leads.trans hR (hR.emit _ .intOut) ?_
              unfold State.callIntout
              split
              · exact .next (hR.refl _)
              · exact hc _ _
            · exact .next (hR.refl _)
          · unfold State.intinWritten
            split
            · exact hR.setPending _ _ (.inl rfl)
            · exact hR.refl _
        · split
          · rename_i h; rw [h]; exact .next (hR.storeIntpend s v)
          · exact .next (hR.storeRaw s _ v (by assumption) (by assumption) (by assumption))

theorem Closed.timerArm (hR : Closed R) (s : State) (d : Int) : R s (s.timerArm d) := by
  unfold State.timerArm
  simp only
  refine hR.trans _ _ _ ?_ (hR.trans _ _ _ (hR.setTimer _ _ _) (hR.setStamp _ _))
  split
  · exact hR.emit _ _
  · exact hR.refl _

theorem Closed.checkTimerWith (hR : Closed R) (call : Nat → State → Result State)
    (hc : ∀ cb s, Leads R s (call cb s)) (s : State) (e : Int) : Leads R s (s.checkTimerWith call e) := by
  unfold State.checkTimerWith
  split
  · simp only
    refine Leads.trans hR (hR.setTimer s true (s.timerCyc - e)) ?_
    split
    · unfold State.fireTimer
      refine Leads.trans hR (hR.trans _ _ _ (hR.setTimer (s.setTimer true (s.timerCyc - e)) false 0)
        (hR.emit _ .timerFired)) ?_
      simp only
      split
      · intro t ht; cases ht
      · exact hc _ _
    · exact .next (hR.refl _)
  · exact .next (hR.refl _)

theorem Closed.timerAutoCheckWith (hR : Closed R) (call : Nat → State → Result State)
    (hc : ∀ cb s, Leads R s (call cb s)) (s : State) (point : CheckPoint) (budget : Int) :
    Leads R s (s.timerAutoCheckWith call point budget) := by
  unfold State.timerAutoCheckWith
  split
  · exact Leads.trans hR (hR.setStamp _ _) (hR.checkTimerWith call hc _ _)
  · exact hR.checkTimerWith call hc _ _
  · exact hR.checkTimerWith call hc _ _

theorem Closed.beginLine (hR : Closed R) (s : State) (line : Int) : R s (s.beginLine line) := by
  unfold State.beginLine
  refine hR.trans _ (s.setCurrentLine line) _ (hR.storeVcount s _)
    (hR.trans _ ((s.setCurrentLine line).raiseDisplayInterrupt line) _ ?_ ?_)
  · unfold State.raiseDisplayInterrupt
    split
    · exact hR.setPending _ _ (.inr (.inl rfl))
    · exact hR.refl _
  · unfold State.reloadDisplayAddress
    split
    · exact hR.storeDpyadr _ _
    · exact hR.refl _

theorem Closed.generateScanlineWith (hR : Closed R) (onFire : Nat → State → Result State)
    (render : Option (DisplayParams → State → Result State)) (hf : ∀ cb s, Leads R s (onFire cb s))
    (hr : ∀ call ∈ render, ∀ p s, Leads R s (call p s)) (s : State) (line : Int) (r : Nat × State)
    (h : s.generateScanlineWith onFire render line = .next r) : R s r.2 := by
  unfold State.generateScanlineWith at h
  split at h
  · cases h
  · obtain ⟨t, h1, h⟩ := andThen_eq_next.1 h
    obtain ⟨u, h2, h⟩ := andThen_eq_next.1 h
    cases h
    refine hR.trans _ _ _ (hR.timerAutoCheckWith onFire hf _ _ _ t h1) (hR.trans _ _ _ (hR.beginLine t line) ?_)
    refine hR.trans _ u _ ?_ ?_
    · unfold State.renderLine at h2
      split at h2
      · cases h2; exact hR.refl _
      · split at h2
        · exact hR.trans _ _ _ (hR.emit _ _) (hr _ rfl _ _ u h2)
        · cases h2; exact hR.refl _
    · simp only
      unfold State.advanceDisplayAddress
      split
      · exact hR.storeDpyadr _ _
      · exact hR.refl _

/-- A reset leads along the relation. -/
theorem Closed.resetNow (hR : Closed R) (s : State) (h : s.inRun = false) : R s s.resetNow :=
  hR.trans _ _ _ (hR.zeroed s h) (hR.trans _ _ _ (hR.setSt _ s.cfg.stInit)
    (hR.trans _ _ _ (hR.memRead32 _ s.cfg.vecReset) (hR.setPc _ _)))

/-- What a callback's call of `run` answers leads along the relation. -/
def RunLeads (R : State → State → Prop) (run : RunCall) : Prop := ∀ budget s r, run budget s = .next r → R s r.2

/-- A refused run leads nowhere. -/
theorem refuseRun_leads (R : State → State → Prop) : RunLeads R refuseRun := by
  intro budget s r h
  cases h

/-- A callback's program leads along the relation, if its runs do. -/
theorem Closed.runCollab (hR : Closed R) {run : RunCall} (hrun : RunLeads R run) (p : CollabProg) (s : State) :
    Leads R s (runCollab run p s) := by
  induction p generalizing s with
  | done => exact .next (hR.refl s)
  | stop k ih => exact Leads.trans hR (hR.stop s) (ih _)
  | setIrqLine line level k ih => exact Leads.trans hR (hR.setIrqLine s line level) (ih _ _)
  | readRegister a k ih => exact ih _ s
  | writeRegister a v intout k ih1 ih2 =>
    exact Leads.andThen hR (hR.writeRegisterWith _ (fun _ => ih1) s a v) ih2
  | totalCycles k ih => exact ih _ s
  | timerArm d k ih => exact Leads.trans hR (hR.timerArm s d) (ih _)
  | checkTimer e onFire k ih1 ih2 => exact Leads.andThen hR (hR.checkTimerWith _ (fun _ => ih1) s e) ih2
  | timerSetCallback cb k ih => exact Leads.trans hR (hR.setTimerCb s cb) (ih _)
  | setIntoutCallback cb k ih => exact Leads.trans hR (hR.setIntoutCb s cb) (ih _)
  | mapMemory buf start stop dir k ih => exact Leads.trans hR (hR.mapMemory s buf start stop dir) (ih _ _)
  | mapHandler id start stop dir k ih => exact Leads.trans hR (hR.mapHandler s id start stop dir) (ih _ _)
  | setHandler id rd wr k ih => exact Leads.trans hR (hR.setHandler s id rd wr) (ih _ _)
  | generateScanline line hasCb onFire render k ih1 ih2 ih3 =>
    intro u hu
    obtain ⟨r, h1, h2⟩ := andThen_eq_next.1 hu
    refine hR.trans _ _ _ (hR.generateScanlineWith _ _ (fun _ => ih1) ?_ s line r h1) (ih3 _ _ u h2)
    intro call hcall params v
    split at hcall
    · cases hcall; exact ih2 params v
    · cases hcall
  | reset k ih =>
    refine Leads.andThen hR ?_ ih
    unfold State.resetOp
    split
    · intro t ht; cases ht
    · rename_i h; exact .next (hR.resetNow s (by simpa using h))
  | serialize k ih =>
    intro u hu
    obtain ⟨r, h1, h2⟩ := andThen_eq_next.1 hu
    exact ih r s u h2
  | deserialize src k ih =>
    intro u hu
    obtain ⟨r, h1, h2⟩ := andThen_eq_next.1 hu
    refine hR.trans _ r.2 _ ?_ (ih r.1 r.2 u h2)
    unfold State.deserializeOp at h1
    split at h1
    · cases h1
    · rename_i hin
      split at h1
      · cases h1; exact hR.refl s
      · rename_i f hf; cases h1; exact hR.restore s src f (by simpa using hin) hf
  | readBuffer buf o k ih => exact ih _ s
  | writeBuffer buf o v k ih => exact Leads.trans hR (hR.setBuffer s buf o v) (ih _)
  | run budget k ih =>
    intro u hu
    obtain ⟨r, h1, h2⟩ := andThen_eq_next.1 hu
    exact hR.trans _ _ _ (hrun budget s r h1) (ih _ _ u h2)

theorem Closed.writeRegister (hR : Closed R) {run : RunCall} (hrun : RunLeads R run) (s : State) (a : Addr)
    (v : Word16) : Leads R s (s.writeRegister run a v) :=
  hR.writeRegisterWith _ (fun _ _ => Leads.trans hR (hR.tick _) (hR.runCollab hrun _ _)) s a v

theorem Closed.checkTimer (hR : Closed R) {run : RunCall} (hrun : RunLeads R run) (s : State) (e : Int) :
    Leads R s (s.checkTimer run e) :=
  hR.checkTimerWith _ (fun _ _ => Leads.trans hR (hR.tick _) (hR.runCollab hrun _ _)) s e

theorem Closed.timerAutoCheck (hR : Closed R) {run : RunCall} (hrun : RunLeads R run) (s : State) (point : CheckPoint)
    (budget : Int) : Leads R s (s.timerAutoCheck run point budget) :=
  hR.timerAutoCheckWith _ (fun _ _ => Leads.trans hR (hR.tick _) (hR.runCollab hrun _ _)) s point budget

theorem Closed.generateScanline (hR : Closed R) {run : RunCall} (hrun : RunLeads R run) (s : State) (line : Int)
    (cb : Option Nat) (r : Nat × State) (h : s.generateScanline run line cb = .next r) : R s r.2 := by
  refine hR.generateScanlineWith _ _ (fun _ _ => Leads.trans hR (hR.tick _) (hR.runCollab hrun _ _)) ?_ s line r h
  intro call hcall p t
  cases cb with
  | none => cases hcall
  | some c => cases hcall; exact Leads.trans hR (hR.tick _) (hR.runCollab hrun _ _)

theorem Closed.memWrite16 (hR : Closed R) (s : State) (a : Addr) (v : Word16) : Leads R s (s.memWrite16 a v) := by
  unfold State.memWrite16
  simp only
  split
  · exact .next (hR.setWord s _ _ _)
  · rename_i id _
    unfold State.handlerWrite
    simp only
    refine Leads.trans hR (t := s.emit (.handlerWrite id (alignDown a) v)) (hR.emit s _) ?_
    split
    · exact .next (hR.refl _)
    · exact hR.writeRegister (refuseRun_leads R) _ _ _
    · exact .next (hR.trans _ _ _ (hR.tick _) (hR.applyActions _ _))

theorem Closed.memWrite32 (hR : Closed R) (s : State) (a : Addr) (v : Word32) : Leads R s (s.memWrite32 a v) :=
  Leads.andThen hR (hR.memWrite16 _ _ _) fun _ => hR.memWrite16 _ _ _

theorem Closed.push32 (hR : Closed R) (s : State) (v : Word32) : Leads R s (s.push32 v) :=
  Leads.trans hR (hR.setX s _ _) (hR.memWrite32 _ _ _)

theorem Closed.pop32 (hR : Closed R) (s : State) : R s s.pop32.2 :=
  hR.trans _ _ _ (hR.memRead32 s _) (hR.setX _ _ _)

theorem Closed.loadVector (hR : Closed R) (s : State) (vec : Addr) : R s (s.loadVector vec) :=
  hR.trans _ _ _ (hR.memRead32 s vec) (hR.setPc _ _)

/-- Taking an interrupt leads along the relation. -/
theorem Closed.take (hR : Closed R) (s : State) (source : IntSource) (vec : Addr) : Leads R s (s.take source vec) := by
  refine Leads.andThen hR (hR.push32 s _) fun t => Leads.andThen hR (hR.push32 t _) fun u => .next ?_
  unfold State.enterVector
  exact hR.trans _ _ _ (hR.trans _ _ _ (hR.setSt u _) (hR.loadVector _ _)) (hR.trans _ _ _ (hR.charge _ _) (hR.emit _ _))

theorem Closed.returnFromInterrupt (hR : Closed R) (s : State) : R s s.returnFromInterrupt := by
  unfold State.returnFromInterrupt
  exact hR.trans _ _ _ (hR.trans _ _ _ (hR.pop32 s) (hR.setSt _ _)) (hR.trans _ _ _ (hR.pop32 _) (hR.setPc _ _))

theorem Closed.serviceInterrupts (hR : Closed R) (s : State) : Leads R s s.serviceInterrupts := by
  unfold State.serviceInterrupts
  split
  · exact Leads.trans hR (hR.storeHstctlh s _) (hR.take _ _ _)
  · split
    · exact Leads.andThen hR (hR.take s _ _) fun t => .next (hR.trans _ _ _ (hR.holdClear0 t _) (hR.holdClear1 _ _))
    · exact .next (hR.refl s)

theorem Closed.fetchOpcode (hR : Closed R) (s : State) : R s s.fetchOpcode.2 := by
  unfold State.fetchOpcode
  simp only
  refine hR.trans _ (if s.pc &&& 0xF#32 ≠ 0#32 then s.emit (.misalignedFetch s.pc) else s) _ ?_
    (hR.trans _ _ _ (hR.setPc _ _) (hR.trans _ _ _ (hR.memRead16 _ _) (hR.setPc _ _)))
  split
  · exact hR.emit _ _
  · exact hR.refl _

theorem Closed.fetchRest (hR : Closed R) (s : State) (w : Word16) : R s (s.fetchRest w).2 := by
  unfold State.fetchRest State.fetchOperands
  simp only
  split
  · exact hR.refl s
  · exact hR.trans _ _ _ (hR.memRead16 s _) (hR.setPc _ _)
  · exact hR.trans _ _ _ (hR.memReadHalves s _) (hR.setPc _ _)

/-- A handler of a platform's table leads along the relation. -/
theorem Closed.runHandler (hR : Closed R) (p : HandlerProg) (s : State) : Leads R s (runHandler p s) := by
  induction p generalizing s with
  | ret cost => exact .next (hR.charge s cost)
  | fault reason => intro t ht; cases ht
  | refuse reason => intro t ht; cases ht
  | read k ih => exact ih _ s
  | writePc v k ih => exact Leads.trans hR (hR.setPc s v) (ih _)
  | writeSt v k ih => exact Leads.trans hR (hR.setSt s v) (ih _)
  | writeX i v k ih => exact Leads.trans hR (hR.setX s i v) (ih _)
  | writeShiftreg i v k ih => exact Leads.trans hR (hR.setShiftreg s i v) (ih _)
  | memRead8 a k ih => exact Leads.trans hR (hR.memRead8 s a) (ih _ _)
  | memRead16 a k ih => exact Leads.trans hR (hR.memRead16 s a) (ih _ _)
  | memRead32 a k ih => exact Leads.trans hR (hR.memRead32 s a) (ih _ _)
  | memWrite16 a v k ih => exact Leads.andThen hR (hR.memWrite16 s a v) ih
  | memWrite32 a v k ih => exact Leads.andThen hR (hR.memWrite32 s a v) ih
  | setWv k ih => exact Leads.trans hR (hR.setPending s _ (.inr (.inr rfl))) (ih _)
  | stop k ih => exact Leads.trans hR (hR.stop s) (ih _)
  | trap source vec k ih => exact Leads.andThen hR (hR.take s source vec) ih
  | hook k ih =>
    unfold Machine.runHandler
    split
    · exact ih s
    · intro t ht; cases ht
  | run budget => intro t ht; cases ht

/-- Every instruction of TH leads along the relation. -/
theorem Closed.thHandler (hR : Closed R) (i : Instr) (s : State) : Leads R s (thHandler i s) := by
  cases i with
  | dispatch w => intro t ht; cases ht
  | nop n => exact .next (hR.charge s _)
  | movi n imm => exact .next (hR.trans _ _ _ (hR.setX s _ _) (hR.charge _ _))
  | addi n imm => exact .next (hR.trans _ _ _ (hR.setX s _ _) (hR.charge _ _))
  | dsj n disp =>
    unfold Machine.thHandler execDsj
    simp only
    refine Leads.trans hR (hR.setX s (slotA n) (s.a n - 1#32)) ?_
    split
    · exact .next (hR.trans _ _ _ (hR.setPc _ _) (hR.charge _ _))
    · exact .next (hR.charge _ _)
  | stl n addr => exact Leads.andThen hR (hR.memWrite32 s _ _) fun t => .next (hR.charge t _)
  | ldl n addr => exact .next (hR.trans _ _ _ (hR.memRead32 s addr) (hR.trans _ _ _ (hR.setX _ _ _) (hR.charge _ _)))
  | stw n addr => exact Leads.andThen hR (hR.memWrite16 s _ _) fun t => .next (hR.charge t _)
  | ldw n addr => exact .next (hR.trans _ _ _ (hR.memRead16 s addr) (hR.trans _ _ _ (hR.setX _ _ _) (hR.charge _ _)))
  | eint n => exact .next (hR.trans _ _ _ (hR.setSt s _) (hR.charge _ _))
  | dint n => exact .next (hR.trans _ _ _ (hR.setSt s _) (hR.charge _ _))
  | reti n => exact .next (hR.trans _ _ _ (hR.returnFromInterrupt s) (hR.charge _ _))
  | jmpa n addr => exact .next (hR.trans _ _ _ (hR.setPc s _) (hR.charge _ _))
  | tstop n => exact .next (hR.trans _ _ _ (hR.stop s) (hR.charge _ _))

/-- Every instruction leads along the relation. -/
theorem Closed.exec (hR : Closed R) (i : Instr) (s : State) : Leads R s (exec i s) := by
  cases i with
  | dispatch w =>
    show Leads R s (execDispatch w s)
    unfold execDispatch
    split
    · exact Leads.trans hR (hR.fetchRest s w) (hR.thHandler _ _)
    · exact Leads.trans hR (hR.tick s) (hR.runHandler _ _)
  | nop n => exact hR.thHandler (.nop n) s
  | movi n imm => exact hR.thHandler (.movi n imm) s
  | addi n imm => exact hR.thHandler (.addi n imm) s
  | dsj n disp => exact hR.thHandler (.dsj n disp) s
  | stl n addr => exact hR.thHandler (.stl n addr) s
  | ldl n addr => exact hR.thHandler (.ldl n addr) s
  | stw n addr => exact hR.thHandler (.stw n addr) s
  | ldw n addr => exact hR.thHandler (.ldw n addr) s
  | eint n => exact hR.thHandler (.eint n) s
  | dint n => exact hR.thHandler (.dint n) s
  | reti n => exact hR.thHandler (.reti n) s
  | jmpa n addr => exact hR.thHandler (.jmpa n addr) s
  | tstop n => exact hR.thHandler (.tstop n) s

/-- Every iteration of the loop leads along the relation. -/
theorem Closed.iteration (hR : Closed R) (s : State) : Leads R s (iteration s) :=
  Leads.andThen hR (hR.serviceInterrupts s) fun t =>
    Leads.trans hR (hR.trans _ _ _ (hR.fetchOpcode t) (hR.fetchRest _ _)) (hR.exec _ _)

/-- The loop of a run that a callback makes leads along the relation. -/
theorem Closed.runLoop (hR : Closed R) (fuel : Nat) (s : State) : Leads R s (runLoop fuel s) := by
  induction fuel generalizing s with
  | zero =>
    unfold Machine.runLoop
    split
    · intro t ht; cases ht
    · exact .next (hR.refl s)
  | succ fuel ih =>
    unfold Machine.runLoop
    split
    · exact Leads.andThen hR (hR.iteration s) ih
    · exact .next (hR.refl s)

/-- The entry of a run leads along the relation from its start. -/
theorem Closed.enterRun (hR : Closed R) (s : State) (budget : Int) : Leads R (s.startRun budget) (s.enterRun budget) :=
  hR.timerAutoCheck (refuseRun_leads R) _ _ _

/-- A run that a callback makes leads along the relation. -/
theorem Closed.nestedRun_leads (hR : Closed R) : RunLeads R State.nestedRun := by
  intro budget s r h
  unfold State.nestedRun at h
  split at h
  · cases h
  · rename_i hin
    split at h
    · cases h; exact hR.refl s
    · obtain ⟨t, h1, h⟩ := andThen_eq_next.1 h
      obtain ⟨u, h2, h⟩ := andThen_eq_next.1 h
      cases h
      exact hR.nestedRun s u budget (by simpa using hin)
        (hR.trans _ _ _ (hR.enterRun s budget t h1) (hR.runLoop _ t u h2))

/-- Every host call but the start of a run leads along the relation, if answers do. -/
theorem Closed.hostCall (hR : Closed R) (ha : ∀ s r, R s (s.answer r)) (hs : ∀ s budget, R s (s.startRun budget))
    (s : State) (op : HostOp) : Leads R s (s.hostCall op) := by
  have ok : ∀ s (r : Bool × State), R s r.2 → R s (okOrError r) := fun s r h => hR.trans _ _ _ h (ha _ _)
  cases op with
  | reset =>
    refine Leads.andThen hR ?_ fun t => .next (ha t _)
    unfold State.resetOp
    split
    · intro t ht; cases ht
    · rename_i h; exact .next (hR.resetNow s (by simpa using h))
  | run budget =>
    show Leads R s (s.runEntry budget)
    unfold State.runEntry
    split
    · intro t ht; cases ht
    · split
      · exact .next (ha s _)
      · exact Leads.trans hR (hs s budget) (hR.enterRun s budget)
  | stop => exact .next (hR.trans _ _ _ (hR.stop s) (ha _ _))
  | setIrqLine line level => exact .next (ok s _ (hR.setIrqLine s line level))
  | generateScanline line cb =>
    intro u hu
    obtain ⟨r, h1, h2⟩ := andThen_eq_next.1 hu
    cases h2
    exact hR.trans _ _ _ (hR.generateScanline hR.nestedRun_leads s line cb r h1) (ha _ _)
  | totalCycles => exact .next (ha s _)
  | mapMemory buf start stop dir => exact .next (ok s _ (hR.mapMemory s _ _ _ _))
  | mapHandler id start stop dir => exact .next (ok s _ (hR.mapHandler s _ _ _ _))
  | setHandler id rd wr => exact .next (ok s _ (hR.setHandler s _ _ _))
  | timerSetCallback cb => exact .next (hR.trans _ _ _ (hR.setTimerCb s cb) (ha _ _))
  | timerArm d => exact .next (hR.trans _ _ _ (hR.timerArm s d) (ha _ _))
  | checkTimer e => exact Leads.andThen hR (hR.checkTimer hR.nestedRun_leads s e) fun t => .next (ha t _)
  | setIntoutCallback cb => exact .next (hR.trans _ _ _ (hR.setIntoutCb s cb) (ha _ _))
  | writeRegister a v => exact Leads.andThen hR (hR.writeRegister hR.nestedRun_leads s a v) fun t => .next (ha t _)
  | readRegister a => exact .next (ha s _)
  | writeBuffer buf o v => exact .next (hR.trans _ _ _ (hR.setBuffer s buf o v) (ha _ _))
  | serialize =>
    intro u hu
    obtain ⟨r, h1, h2⟩ := andThen_eq_next.1 hu
    cases h2
    exact ha s _
  | deserialize src =>
    intro u hu
    obtain ⟨r, h1, h2⟩ := andThen_eq_next.1 hu
    cases h2
    refine ok s r ?_
    unfold State.deserializeOp at h1
    split at h1
    · cases h1
    · rename_i hin
      split at h1
      · cases h1; exact hR.refl s
      · rename_i f hf; cases h1; exact hR.restore s src f (by simpa using hin) hf

end Sys2Proof.Machine
end

