-- ==== Sys2Proof/Laws/Fetch.lean ====
section
/-! SUPPORT. What the fetch and the operand forms can do, each said once. -/

namespace Sys2Proof.Machine

variable (s : State)

@[simp] theorem State.noteFetch_cfg : s.noteFetch.cfg = s.cfg := by unfold State.noteFetch; split <;> rfl

@[simp] theorem State.noteFetch_pc : s.noteFetch.pc = s.pc := by unfold State.noteFetch; split <;> rfl

@[simp] theorem State.noteFetch_mem : s.noteFetch.mem = s.mem := by unfold State.noteFetch; split <;> rfl

@[simp] theorem State.noteFetch_ht : s.noteFetch.ht = s.ht := by unfold State.noteFetch; split <;> rfl

/-- The fetch of the opcode word, its two notes apart. -/
theorem State.fetchOpcode_eq : s.fetchOpcode =
    (((s.noteFetch.setPc (alignDown s.pc)).memRead16 s.pc).1,
      ((s.noteFetch.setPc (alignDown s.pc)).memRead16 s.pc).2.setPc (alignDown s.pc + BitVec.ofNat 32 s.cfg.fetchWidth)) := by
  have h : s.fetchOpcode =
      (((s.noteFetch.setPc (alignDown s.noteFetch.pc)).memRead16 (alignDown s.noteFetch.pc)).1,
        ((s.noteFetch.setPc (alignDown s.noteFetch.pc)).memRead16 (alignDown s.noteFetch.pc)).2.setPc
          (((s.noteFetch.setPc (alignDown s.noteFetch.pc)).memRead16 (alignDown s.noteFetch.pc)).2.pc
            + BitVec.ofNat 32 ((s.noteFetch.setPc (alignDown s.noteFetch.pc)).memRead16 (alignDown s.noteFetch.pc)).2.cfg.fetchWidth)) := rfl
  rw [h, State.noteFetch_pc, State.memRead16_alignDown, (State.memRead16_onlyBus _ s.pc).pc,
    (State.memRead16_onlyBus _ s.pc).cfg]
  simp only [State.setPc_cfg, State.noteFetch_cfg, State.setPc_pc]

/-- The fetch of an opcode word that lies in memory. -/
theorem State.fetchOpcode_of_peek {w : Word16} (h : s.peek16 s.pc = some w) :
    s.fetchOpcode = (w, s.noteFetch.setPc (alignDown s.pc + BitVec.ofNat 32 s.cfg.fetchWidth)) := by
  have hm : (s.noteFetch.setPc (alignDown s.pc)).peek16 s.pc = some w := by
    rw [← h]; exact State.peek16_congr (by simp) (by simp) _
  rw [State.fetchOpcode_eq, State.memRead16_of_peek _ _ _ hm]
  rfl

/-- The words of a decoded instruction: as many operand words as its opcode word has, and what it decodes to. -/
theorem decode_layWords {hs : HandlerSet} {ord : Word32Order} {w : Word16} {ws : List Word16} {i : Instr}
    (h : decode hs ord (layWords (w :: ws)) = .ok i []) :
    ws.length = operandWords hs w ∧ i = decodeWords hs ord w (ws.getD 0 0) (ws.getD 1 0) := by
  have hle := operandWords_le hs w
  have none : takeWord (layWords []) = none := rfl
  unfold decode at h
  simp only [layWords, takeWord_wordBytes] at h
  generalize operandWords hs w = o at h hle ⊢
  have ne : ∀ v vs, layWords (v :: vs) ≠ [] := fun v vs e => by simp [layWords, wordBytes] at e
  interval_cases o
  · simp only [DecodeResult.ok.injEq] at h
    rcases ws with _ | ⟨a, ws⟩
    · exact ⟨rfl, h.1.symm⟩
    · exact (ne _ _ h.2).elim
  · rcases ws with _ | ⟨a, _ | ⟨b, ws⟩⟩
    · simp only [none] at h; cases h
    · simp only [layWords, takeWord_wordBytes, DecodeResult.ok.injEq] at h
      exact ⟨rfl, h.1.symm⟩
    · simp only [layWords, takeWord_wordBytes, DecodeResult.ok.injEq] at h
      exact (ne b ws h.2).elim
  · rcases ws with _ | ⟨a, _ | ⟨b, _ | ⟨c, ws⟩⟩⟩
    · simp only [none] at h; cases h
    · simp only [layWords, takeWord_wordBytes] at h
      simp only [takeWord] at h
      cases h
    · simp only [layWords, takeWord_wordBytes, DecodeResult.ok.injEq] at h
      exact ⟨rfl, h.1.symm⟩
    · simp only [layWords, takeWord_wordBytes, DecodeResult.ok.injEq] at h
      exact (ne c ws h.2).elim

/-- The operands of an instruction whose operand words lie in memory. -/
theorem State.fetchRest_of_words {w : Word16} {ws : List Word16} {i : Instr} (hw : s.wordsAt s.pc ws)
    (h : decode s.cfg.handlers s.cfg.word32Order (layWords (w :: ws)) = .ok i []) :
    s.fetchRest w = (i, s.setPc (s.pc + 16#32 * BitVec.ofNat 32 ws.length)) := by
  obtain ⟨hl, hi⟩ := decode_layWords h
  unfold State.fetchRest State.fetchOperands
  rcases ws with _ | ⟨a, _ | ⟨b, _ | ⟨c, ws⟩⟩⟩
  · rw [← hl]; simp [hi, State.setPc]
  · rw [← hl]
    have h0 := hw 0 a rfl
    simp at h0
    simp [hi, State.fetchOperand16, s.memRead16_of_peek _ _ h0]
  · rw [← hl]
    have h0 := hw 0 a rfl
    have h1 := hw 1 b rfl
    simp at h0 h1
    simp [hi, State.fetchOperand32, s.memReadHalves_of_peek _ _ _ h0 h1]
  · have := operandWords_le s.cfg.handlers w
    simp at hl; omega

/-- The fetch of an instruction whose words lie in memory. -/
theorem State.fetchInstr_of_words {w : Word16} {ws : List Word16} {i : Instr} (hw : s.peek16 s.pc = some w)
    (hws : s.wordsAt s.operandAddr ws) (h : decode s.cfg.handlers s.cfg.word32Order (layWords (w :: ws)) = .ok i []) :
    s.fetchInstr = (i, s.noteFetch.setPc (s.operandAddr + 16#32 * BitVec.ofNat 32 ws.length)) := by
  unfold State.fetchInstr
  rw [s.fetchOpcode_of_peek hw]
  simp only
  rw [State.fetchRest_of_words (i := i) _ ?_ (by simpa using h)]
  · rfl
  · intro j v hj
    rw [← hws j v hj]
    exact State.peek16_congr (by simp) (by simp) _

/-- The operand words of a TH word with none. -/
theorem State.fetchRest_th0 {w : Word16} (h : s.cfg.handlers = .th) (hk : thOperandWords w = 0) :
    s.fetchRest w = (decodeTh s.cfg.word32Order w 0 0, s) := by
  unfold State.fetchRest State.fetchOperands operandWords
  rw [h]; simp only [hk, decodeWords]; rfl

/-- The operand words of a TH word with one, wherever they lie. -/
theorem State.fetchRest_th1 {w : Word16} (h : s.cfg.handlers = .th) (hk : thOperandWords w = 1) :
    s.fetchRest w =
      (decodeTh s.cfg.word32Order w (s.memRead16 s.pc).1 0, (s.memRead16 s.pc).2.setPc (s.pc + 16#32)) := by
  unfold State.fetchRest State.fetchOperands operandWords
  rw [h]; simp only [hk, decodeWords, State.fetchOperand16, (s.memRead16_onlyBus s.pc).pc]; rfl

/-- The operand words of a TH word with two, wherever they lie. -/
theorem State.fetchRest_th2 {w : Word16} (h : s.cfg.handlers = .th) (hk : thOperandWords w = 2) :
    s.fetchRest w =
      (decodeTh s.cfg.word32Order w (s.memReadHalves s.pc).1 (s.memReadHalves s.pc).2.1,
        (s.memRead32 s.pc).2.setPc (s.pc + 32#32)) := by
  unfold State.fetchRest State.fetchOperands operandWords
  rw [h]; simp only [hk, decodeWords, State.fetchOperand32, (s.memReadHalves_onlyBus s.pc).pc]; rfl

/-- A word dispatched under TH. -/
theorem exec_dispatch_th (w : Word16) (h : s.cfg.handlers = .th) :
    exec (.dispatch w) s = thHandler (s.fetchRest w).1 (s.fetchRest w).2 := by
  show execDispatch _ _ = _
  unfold execDispatch
  rw [h]

end Sys2Proof.Machine
end

