-- ==== Sys2Proof/Laws/Invariant.lean ====
section
/-! SUPPORT. Relations that every primitive update keeps (Laws/Closure.lean): the parameters, the accounts of a run, the
good states, the bits of INTPEND that belong to no source. -/

namespace Sys2Proof.Machine

@[simp] theorem State.setPending_cfg (s : State) (bit : Fin 16) (b : Bool) : (s.setPending bit b).cfg = s.cfg := rfl

@[simp] theorem State.recomputeRopSel_cfg (s : State) : s.recomputeRopSel.cfg = s.cfg := rfl

@[simp] theorem State.restoreFields_cfg (s : State) (f : Saved) : (s.restoreFields f).cfg = s.cfg := by
  simp only [State.restoreFields]

@[simp] theorem State.restoreFields_mem (s : State) (f : Saved) : (s.restoreFields f).mem = s.mem := by
  simp only [State.restoreFields]

@[simp] theorem State.restoreFields_ht (s : State) (f : Saved) : (s.restoreFields f).ht = s.ht := by
  simp only [State.restoreFields]

@[simp] theorem State.restoreFields_shiftreg (s : State) (f : Saved) : (s.restoreFields f).shiftreg = f.shiftreg := by
  simp only [State.restoreFields]

@[simp] theorem State.recomputeRopSel_mem (s : State) : s.recomputeRopSel.mem = s.mem := rfl

@[simp] theorem State.recomputeRopSel_ht (s : State) : s.recomputeRopSel.ht = s.ht := rfl

@[simp] theorem State.recomputeRopSel_shiftreg (s : State) : s.recomputeRopSel.shiftreg = s.shiftreg := rfl

@[simp] theorem State.recomputePixelshift_cfg (s : State) : s.recomputePixelshift.cfg = s.cfg := by
  unfold State.recomputePixelshift; split <;> rfl

@[simp] theorem State.recomputePixelshift_io (s : State) : s.recomputePixelshift.io = s.io := by
  unfold State.recomputePixelshift; split <;> rfl

@[simp] theorem State.recomputePixelshift_inRun (s : State) : s.recomputePixelshift.inRun = s.inRun := by
  unfold State.recomputePixelshift; split <;> rfl

@[simp] theorem State.recomputePixelshift_mem (s : State) : s.recomputePixelshift.mem = s.mem := by
  unfold State.recomputePixelshift; split <;> rfl

@[simp] theorem State.recomputePixelshift_ht (s : State) : s.recomputePixelshift.ht = s.ht := by
  unfold State.recomputePixelshift; split <;> rfl

@[simp] theorem State.recomputePixelshift_shiftreg (s : State) : s.recomputePixelshift.shiftreg = s.shiftreg := by
  unfold State.recomputePixelshift; split <;> rfl

/-- No primitive update writes the parameters. -/
theorem closed_cfg : Closed (fun s t : State => t.cfg = s.cfg) where
  refl _ := rfl
  trans _ _ _ h k := k.trans h
  setX _ _ _ := rfl
  setPc _ _ := rfl
  setSt _ _ := rfl
  setIcounter _ _ := rfl
  emit _ _ := rfl
  tick _ := rfl
  stop _ := rfl
  mapMemory _ _ _ _ _ := rfl
  mapHandler _ _ _ _ _ := rfl
  setWord _ _ _ _ := rfl
  setBuffer _ _ _ _ := rfl
  setHandler s id rd wr := by unfold State.setHandler; split <;> rfl
  setIrqLine s line level := (s.setIrqLine_onlyBus line level).cfg
  setPending _ _ _ := rfl
  holdClear0 s source := by unfold State.holdClear0; split <;> rfl
  holdClear1 s source := by unfold State.holdClear1; split <;> rfl
  storePsize s v := by simp
  storeControl _ _ := rfl
  storeHstctlh _ _ := rfl
  storeHstctll _ _ := rfl
  storeVcount _ _ := rfl
  storeDpyadr _ _ := rfl
  storeIntpend _ _ := rfl
  storeRaw _ _ _ _ _ _ := rfl
  setTimer _ _ _ := rfl
  setStamp _ _ := rfl
  setTimerCb _ _ := rfl
  setIntoutCb _ _ := rfl
  setShiftreg _ _ _ := rfl
  zeroed s _ := by
    rw [State.recomputeRopSel_cfg, State.recomputePixelshift_cfg]
    rfl
  restore s src f _ _ := by
    rw [State.restore, State.recomputeRopSel_cfg, State.recomputePixelshift_cfg, State.restoreFields_cfg]
  nestedRun _ _ _ _ h := h

/-- Inside a run nothing but its exit moves the total or the budget at entry, ends it, or takes a host call. -/
theorem closed_accounts : Closed (fun s t : State => s.inRun = true →
    t.totalCycles = s.totalCycles ∧ t.cyclesStart = s.cyclesStart ∧ t.inRun = true ∧ t.inbox = s.inbox
      ∧ t.results = s.results) where
  refl _ h := ⟨rfl, rfl, h, rfl, rfl⟩
  trans _ _ _ h k hr := by
    obtain ⟨a, b, c, d, e⟩ := h hr
    obtain ⟨a', b', c', d', e'⟩ := k c
    exact ⟨a'.trans a, b'.trans b, c', d'.trans d, e'.trans e⟩
  setX _ _ _ h := ⟨rfl, rfl, h, rfl, rfl⟩
  setPc _ _ h := ⟨rfl, rfl, h, rfl, rfl⟩
  setSt _ _ h := ⟨rfl, rfl, h, rfl, rfl⟩
  setIcounter _ _ h := ⟨rfl, rfl, h, rfl, rfl⟩
  emit _ _ h := ⟨rfl, rfl, h, rfl, rfl⟩
  tick _ h := ⟨rfl, rfl, h, rfl, rfl⟩
  stop _ h := ⟨rfl, rfl, h, rfl, rfl⟩
  mapMemory _ _ _ _ _ h := ⟨rfl, rfl, h, rfl, rfl⟩
  mapHandler _ _ _ _ _ h := ⟨rfl, rfl, h, rfl, rfl⟩
  setWord _ _ _ _ h := ⟨rfl, rfl, h, rfl, rfl⟩
  setBuffer _ _ _ _ h := ⟨rfl, rfl, h, rfl, rfl⟩
  setHandler s id rd wr h := by unfold State.setHandler; split <;> exact ⟨rfl, rfl, h, rfl, rfl⟩
  setIrqLine s line level h :=
    let k := s.setIrqLine_onlyBus line level
    ⟨k.totalCycles, k.cyclesStart, k.inRun.trans h, k.inbox, k.results⟩
  setPending _ _ _ h := ⟨rfl, rfl, h, rfl, rfl⟩
  holdClear0 s source h := by unfold State.holdClear0; split <;> exact ⟨rfl, rfl, h, rfl, rfl⟩
  holdClear1 s source h := by unfold State.holdClear1; split <;> exact ⟨rfl, rfl, h, rfl, rfl⟩
  storePsize s v h := by unfold State.recomputePixelshift; split <;> exact ⟨rfl, rfl, h, rfl, rfl⟩
  storeControl _ _ h := ⟨rfl, rfl, h, rfl, rfl⟩
  storeHstctlh _ _ h := ⟨rfl, rfl, h, rfl, rfl⟩
  storeHstctll _ _ h := ⟨rfl, rfl, h, rfl, rfl⟩
  storeVcount _ _ h := ⟨rfl, rfl, h, rfl, rfl⟩
  storeDpyadr _ _ h := ⟨rfl, rfl, h, rfl, rfl⟩
  storeIntpend _ _ h := ⟨rfl, rfl, h, rfl, rfl⟩
  storeRaw _ _ _ _ _ _ h := ⟨rfl, rfl, h, rfl, rfl⟩
  setTimer _ _ _ h := ⟨rfl, rfl, h, rfl, rfl⟩
  setStamp _ _ h := ⟨rfl, rfl, h, rfl, rfl⟩
  setTimerCb _ _ h := ⟨rfl, rfl, h, rfl, rfl⟩
  setIntoutCb _ _ h := ⟨rfl, rfl, h, rfl, rfl⟩
  setShiftreg _ _ _ h := ⟨rfl, rfl, h, rfl, rfl⟩
  zeroed s hn h := by rw [h] at hn; cases hn
  restore s src f hn _ h := by rw [h] at hn; cases hn
  nestedRun s t _ hn _ h := by rw [h] at hn; cases hn

/-- The indices of the named registers are apart; `i` and `j` count in Table IO's order. -/
theorem Params.index_ne {p : Params} (h : p.wf) (i j : Fin 27) (hij : i ≠ j) :
    p.ioIndex.all.get i ≠ p.ioIndex.all.get j := fun e => hij (List.nodup_iff_injective_get.1 h.2.2.2.2.1 e)

/-- The caches depend on PSIZE, CONTROL and the caches alone. -/
theorem State.cachesCurrent_congr {s t : State} (hc : t.cfg = s.cfg)
    (hp : t.ioAt s.cfg.ioIndex.psize = s.ioAt s.cfg.ioIndex.psize)
    (hk : t.ioAt s.cfg.ioIndex.control = s.ioAt s.cfg.ioIndex.control) (h1 : t.pixelshift = s.pixelshift)
    (h2 : t.ropSel = s.ropSel) (h : s.cachesCurrent) : t.cachesCurrent := by
  unfold State.cachesCurrent
  rw [hc, hp, hk, h1, h2]
  exact h

/-- What the invariant reads, apart from the caches. -/
theorem State.inv_congr {s t : State} (hc : t.cfg = s.cfg) (hm : t.mem = s.mem) (hh : t.ht = s.ht)
    (hs : t.shiftreg.length = s.shiftreg.length) (hk : s.cachesCurrent → t.cachesCurrent) (h : s.Inv) : t.Inv := by
  obtain ⟨h1, h2, h3, h4, h5, h6⟩ := h
  refine ⟨by rw [hc]; exact h1, by rw [hc, hm]; exact h2, by rw [hc, hh]; exact h3, ?_, by rw [hc, hs]; exact h5, hk h6⟩
  unfold State.slot at h4 ⊢
  rw [hh]
  exact h4

/-- An update that touches nothing the invariant reads keeps it. -/
theorem State.inv_same {s t : State} (hc : t.cfg = s.cfg) (hm : t.mem = s.mem) (hh : t.ht = s.ht)
    (hs : t.shiftreg.length = s.shiftreg.length) (hi : t.io = s.io) (h1 : t.pixelshift = s.pixelshift)
    (h2 : t.ropSel = s.ropSel) (h : s.Inv) : t.Inv :=
  State.inv_congr hc hm hh hs
    (State.cachesCurrent_congr hc (by unfold State.ioAt; simp only [hi]) (by unfold State.ioAt; simp only [hi]) h1 h2) h

/-- A plain store to a register with no cache keeps the invariant. -/
theorem State.inv_setIo {s : State} (i : Fin 64) (v : Word16) (h1 : i ≠ s.cfg.ioIndex.psize)
    (h2 : i ≠ s.cfg.ioIndex.control) (h : s.Inv) : (s.setIo i v).Inv :=
  State.inv_congr (s := s) rfl rfl rfl rfl
    (State.cachesCurrent_congr (s := s) rfl (by rw [State.ioAt_setIo, if_neg (Ne.symm h1)])
      (by rw [State.ioAt_setIo, if_neg (Ne.symm h2)]) rfl rfl) h

/-- INTPEND has no cache. -/
theorem State.inv_setIntpend {s : State} (v : Word16) (h : s.Inv) : (s.setIo s.cfg.ioIndex.intpend v).Inv :=
  State.inv_setIo _ _ (Params.index_ne h.1 18 21 (by decide)) (Params.index_ne h.1 18 11 (by decide)) h

/-- Recomputing both caches makes them current. -/
theorem State.recomputed_cachesCurrent (s : State) : s.recomputePixelshift.recomputeRopSel.cachesCurrent := by
  have hio : s.recomputePixelshift.recomputeRopSel.io = s.io := s.recomputePixelshift_io
  have hio' : s.recomputePixelshift.io = s.io := s.recomputePixelshift_io
  have hc : s.recomputePixelshift.recomputeRopSel.cfg = s.cfg := s.recomputePixelshift_cfg
  refine ⟨fun k hk => ?_, ?_⟩
  · unfold State.ioAt at hk
    simp only [hio, hc] at hk
    show s.recomputePixelshift.pixelshift = k
    unfold State.recomputePixelshift
    unfold State.ioAt
    rw [hk]
    rfl
  · show Config.ropSelect _ = _
    unfold State.ioAt
    simp only [hio, hio', hc, s.recomputePixelshift_cfg]

/-- One item is taken from the front. -/
theorem takeItem_eq_some {α β : Type} {f : SaveItem → Option α} {src : List SaveItem} {k : α → List SaveItem → Option β}
    {b : β} (h : takeItem f src k = some b) : ∃ v rest, k v rest = some b := by
  unfold takeItem at h
  split at h
  · cases h
  · split at h
    · cases h
    · exact ⟨_, _, h⟩

/-- As many items are taken as are asked for. -/
theorem takeItems_eq_some {α β : Type} {f : SaveItem → Option α} {n : Nat} {src : List SaveItem}
    {k : List α → List SaveItem → Option β} {b : β} (h : takeItems f n src k = some b) :
    ∃ vs rest, vs.length = n ∧ k vs rest = some b := by
  induction n generalizing src k with
  | zero => exact ⟨[], src, rfl, h⟩
  | succ n ih =>
    obtain ⟨v, rest, h⟩ := takeItem_eq_some h
    obtain ⟨vs, rest', hl, h⟩ := ih h
    exact ⟨v :: vs, rest', by simp [hl], h⟩

/-- A save state that is read has a shift-register buffer of its size. -/
theorem readSaved_shiftreg {p : Params} {src : List SaveItem} {f : Saved} (h : readSaved p src = some f) :
    f.shiftreg.length = p.shiftregBytes := by
  unfold readSaved at h
  obtain ⟨_, _, h⟩ := takeItem_eq_some h
  obtain ⟨_, _, h⟩ := takeItem_eq_some h
  obtain ⟨_, _, _, h⟩ := takeItems_eq_some h
  obtain ⟨_, _, _, h⟩ := takeItems_eq_some h
  obtain ⟨_, _, h⟩ := takeItem_eq_some h
  obtain ⟨_, _, h⟩ := takeItem_eq_some h
  obtain ⟨_, _, h⟩ := takeItem_eq_some h
  obtain ⟨_, _, h⟩ := takeItem_eq_some h
  obtain ⟨_, _, h⟩ := takeItem_eq_some h
  obtain ⟨vs, _, hl, h⟩ := takeItems_eq_some h
  obtain ⟨_, _, h⟩ := takeItem_eq_some h
  obtain ⟨_, _, h⟩ := takeItem_eq_some h
  obtain ⟨_, _, h⟩ := takeItem_eq_some h
  obtain ⟨_, _, h⟩ := takeItem_eq_some h
  split at h
  · cases h; exact hl
  · cases h

/-- Every primitive update keeps a good state good. -/
theorem closed_inv : Closed (fun s t : State => s.Inv → t.Inv) where
  refl _ h := h
  trans _ _ _ h k hs := k (h hs)
  setX _ _ _ := State.inv_same rfl rfl rfl rfl rfl rfl rfl
  setPc _ _ := State.inv_same rfl rfl rfl rfl rfl rfl rfl
  setSt _ _ := State.inv_same rfl rfl rfl rfl rfl rfl rfl
  setIcounter _ _ := State.inv_same rfl rfl rfl rfl rfl rfl rfl
  emit _ _ := State.inv_same rfl rfl rfl rfl rfl rfl rfl
  tick _ := State.inv_same rfl rfl rfl rfl rfl rfl rfl
  stop _ := State.inv_same rfl rfl rfl rfl rfl rfl rfl
  mapMemory s buf start stop dir h :=
    ⟨h.1, s.mem.mapMemory_wf buf (wf_pagesOk h.1) start stop dir h.2.1, h.2.2.1, h.2.2.2.1, h.2.2.2.2.1, h.2.2.2.2.2⟩
  mapHandler s id start stop dir h :=
    ⟨h.1, s.mem.mapHandler_wf (wf_pagesOk h.1) id start stop dir h.2.1, h.2.2.1, h.2.2.2.1, h.2.2.2.2.1, h.2.2.2.2.2⟩
  setWord s buf o v h :=
    ⟨h.1, s.mem.setWord_wf buf o _ v h.2.1, h.2.2.1, h.2.2.2.1, h.2.2.2.2.1, h.2.2.2.2.2⟩
  setBuffer s buf o v h :=
    ⟨h.1, s.mem.setByte_wf buf o v _ h.2.1, h.2.2.1, h.2.2.2.1, h.2.2.2.2.1, h.2.2.2.2.2⟩
  setHandler s id rd wr h := by
    unfold State.setHandler
    split
    · exact h
    · rename_i hid
      refine ⟨h.1, h.2.1, by simpa using h.2.2.1, ?_, h.2.2.2.2.1, h.2.2.2.2.2⟩
      have h0 : id ≠ 0 := fun e => hid (.inl e)
      have := h.2.2.2.1
      unfold State.slot at this ⊢
      simpa [List.getElem?_set, h0] using this
  setIrqLine s line level h := by
    unfold State.setIrqLine
    split
    · exact State.inv_same rfl rfl rfl rfl rfl rfl rfl (State.inv_setIntpend _ h)
    · split
      · exact State.inv_same rfl rfl rfl rfl rfl rfl rfl (State.inv_setIntpend _ h)
      · exact h
  setPending _ _ _ := State.inv_setIntpend _
  holdClear0 s source h := by
    unfold State.holdClear0
    split
    · exact State.inv_same rfl rfl rfl rfl rfl rfl rfl (State.inv_setIntpend _ h)
    · exact h
  holdClear1 s source h := by
    unfold State.holdClear1
    split
    · exact State.inv_same rfl rfl rfl rfl rfl rfl rfl (State.inv_setIntpend _ h)
    · exact h
  storePsize s v h := by
    refine State.inv_congr (by simp) (by simp) (by simp) (by simp) (fun hk => ⟨fun k he => ?_, ?_⟩) h
    · unfold State.ioAt at he
      simp only [State.recomputePixelshift_io, State.recomputePixelshift_cfg, State.setIo_cfg] at he
      unfold State.recomputePixelshift State.ioAt
      simp only [State.setIo_cfg]
      rw [he]
      rfl
    · have e : ∀ t : State, t.recomputePixelshift.ropSel = t.ropSel := fun t => by
        unfold State.recomputePixelshift; split <;> rfl
      rw [e]
      have e2 : (s.setIo s.cfg.ioIndex.psize v).ioAt s.cfg.ioIndex.control = s.ioAt s.cfg.ioIndex.control := by
        have ne : s.cfg.ioIndex.control ≠ s.cfg.ioIndex.psize := Params.index_ne h.1 11 21 (by decide)
        rw [State.ioAt_setIo, if_neg ne]
      unfold State.ioAt at e2 ⊢
      simp only [State.recomputePixelshift_io, State.recomputePixelshift_cfg, State.setIo_cfg]
      rw [e2]
      exact hk.2
  storeControl s v h := by
    refine State.inv_congr (s := s) rfl rfl rfl rfl (fun hk => ⟨fun k he => hk.1 k ?_, rfl⟩) h
    have e2 : (s.setIo s.cfg.ioIndex.control v).ioAt s.cfg.ioIndex.psize = s.ioAt s.cfg.ioIndex.psize := by
      have ne : s.cfg.ioIndex.psize ≠ s.cfg.ioIndex.control := Params.index_ne h.1 21 11 (by decide)
      rw [State.ioAt_setIo, if_neg ne]
    rw [← e2]
    exact he
  storeHstctlh s v h :=
    State.inv_setIo _ _ (Params.index_ne h.1 16 21 (by decide)) (Params.index_ne h.1 16 11 (by decide)) h
  storeHstctll s v h :=
    State.inv_setIo _ _ (Params.index_ne h.1 15 21 (by decide)) (Params.index_ne h.1 15 11 (by decide)) h
  storeVcount s v h :=
    State.inv_setIo _ _ (Params.index_ne h.1 24 21 (by decide)) (Params.index_ne h.1 24 11 (by decide)) h
  storeDpyadr s v h :=
    State.inv_setIo _ _ (Params.index_ne h.1 25 21 (by decide)) (Params.index_ne h.1 25 11 (by decide)) h
  storeIntpend _ _ h := State.inv_setIntpend _ (State.inv_setIntpend _ h)
  storeRaw _ _ _ h1 h2 _ h := State.inv_setIo _ _ h1 h2 h
  setTimer _ _ _ := State.inv_same rfl rfl rfl rfl rfl rfl rfl
  setStamp _ _ := State.inv_same rfl rfl rfl rfl rfl rfl rfl
  setTimerCb _ _ := State.inv_same rfl rfl rfl rfl rfl rfl rfl
  setIntoutCb _ _ := State.inv_same rfl rfl rfl rfl rfl rfl rfl
  setShiftreg _ _ _ := State.inv_same rfl rfl rfl (by simp) rfl rfl rfl
  zeroed s _ h := by
    have hc : s.zeroed.recomputePixelshift.recomputeRopSel.cfg = s.cfg := s.zeroed.recomputePixelshift_cfg
    have hm : s.zeroed.recomputePixelshift.recomputeRopSel.mem = s.mem := s.zeroed.recomputePixelshift_mem
    have hh : s.zeroed.recomputePixelshift.recomputeRopSel.ht = s.ht := s.zeroed.recomputePixelshift_ht
    refine State.inv_congr (s := s) hc hm hh ?_ (fun _ => State.recomputed_cachesCurrent _) h
    rw [h.2.2.2.2.1]
    show s.zeroed.recomputePixelshift.shiftreg.length = _
    rw [State.recomputePixelshift_shiftreg]
    simp [State.zeroed]
  restore s src f _ hf h := by
    have hc : (s.restore f).cfg = s.cfg := by
      rw [State.restore, State.recomputeRopSel_cfg, State.recomputePixelshift_cfg, State.restoreFields_cfg]
    have hm : (s.restore f).mem = s.mem := by
      rw [State.restore, State.recomputeRopSel_mem, State.recomputePixelshift_mem, State.restoreFields_mem]
    have hh : (s.restore f).ht = s.ht := by
      rw [State.restore, State.recomputeRopSel_ht, State.recomputePixelshift_ht, State.restoreFields_ht]
    have hl : (s.restore f).shiftreg = f.shiftreg := by
      rw [State.restore, State.recomputeRopSel_shiftreg, State.recomputePixelshift_shiftreg, State.restoreFields_shiftreg]
    exact State.inv_congr (s := s) hc hm hh (by rw [h.2.2.2.2.1, hl, readSaved_shiftreg hf])
      (fun _ => State.recomputed_cachesCurrent _) h
  nestedRun s t budget _ h hs := State.inv_same rfl rfl rfl rfl rfl rfl rfl
    (h (State.inv_same (s := s) rfl rfl rfl rfl rfl rfl rfl hs))

/-- The memory after reset has its canonical form. -/
theorem State.reset_mem_wf : State.reset.mem.wf State.reset.cfg := by decide

/-- Setting a bit that belongs to a source keeps the others at 0. -/
theorem setBit16_srcMask {p : Params} {v : Word16} {bit : Fin 16} (b : Bool) (hb : (srcMask p).getLsbD bit.val = true)
    (h : v &&& ~~~(srcMask p) = 0#16) : setBit16 v bit b &&& ~~~(srcMask p) = 0#16 := by
  apply BitVec.eq_of_getLsbD_eq
  intro j hj
  have := congrArg (fun w => BitVec.getLsbD w j) h
  simp only [BitVec.getLsbD_and, BitVec.getLsbD_not, BitVec.getLsbD_zero] at this ⊢
  rw [setBit16_getLsbD _ _ _ _ hj]
  by_cases e : j = bit.val
  · rw [e, hb]; simp
  · simpa [e] using this

/-- The bits of the sources. -/
theorem srcMask_getLsbD (p : Params) (j : Nat) (hj : j < 16) : (srcMask p).getLsbD j =
    decide (j = p.bitHi.val ∨ j = p.bitDi.val ∨ j = p.bitWv.val ∨ j = p.bitInt1.val ∨ j = p.bitInt2.val) := by
  simp only [srcMask, clearable, BitVec.getLsbD_or, bitMask16_getLsbD _ _ hj, Bool.decide_or]
  simp only [Bool.or_assoc]

end Sys2Proof.Machine
end

