-- ==== Sys2Proof/Laws/Store.lean ====
section
/-! SUPPORT. What a write, a push and an interrupt entry can do where no interrupt-output callback is registered: they
complete, and touch nothing but what a bus write can touch. -/

namespace Sys2Proof.Machine

theorem State.OnlyStoreEffects.refl (s : State) : s.OnlyStoreEffects s := by constructor <;> rfl

theorem State.OnlyStoreEffects.trans {s t u : State} (h : s.OnlyStoreEffects t) (k : t.OnlyStoreEffects u) :
    s.OnlyStoreEffects u where
  cfg := k.cfg.trans h.cfg
  x := k.x.trans h.x
  pc := k.pc.trans h.pc
  st := k.st.trans h.st
  cyclesStart := k.cyclesStart.trans h.cyclesStart
  totalCycles := k.totalCycles.trans h.totalCycles
  inRun := k.inRun.trans h.inRun
  timerActive := k.timerActive.trans h.timerActive
  timerCyc := k.timerCyc.trans h.timerCyc
  timerStamp := k.timerStamp.trans h.timerStamp
  shiftreg := k.shiftreg.trans h.shiftreg
  ht := k.ht.trans h.ht
  timerCb := k.timerCb.trans h.timerCb
  intoutCb := k.intoutCb.trans h.intoutCb
  inbox := k.inbox.trans h.inbox
  results := k.results.trans h.results

theorem State.OnlyHandlerEffects.refl (s : State) : s.OnlyHandlerEffects s := by constructor <;> rfl

theorem State.OnlyHandlerEffects.trans {s t u : State} (h : s.OnlyHandlerEffects t) (k : t.OnlyHandlerEffects u) :
    s.OnlyHandlerEffects u where
  cfg := k.cfg.trans h.cfg
  cyclesStart := k.cyclesStart.trans h.cyclesStart
  totalCycles := k.totalCycles.trans h.totalCycles
  inRun := k.inRun.trans h.inRun
  timerActive := k.timerActive.trans h.timerActive
  timerCyc := k.timerCyc.trans h.timerCyc
  timerStamp := k.timerStamp.trans h.timerStamp
  ht := k.ht.trans h.ht
  timerCb := k.timerCb.trans h.timerCb
  intoutCb := k.intoutCb.trans h.intoutCb
  inbox := k.inbox.trans h.inbox
  results := k.results.trans h.results

/-- What a bus read can touch, a bus write can. -/
theorem State.OnlyBusEffects.toStore {s t : State} (h : s.OnlyBusEffects t) : s.OnlyStoreEffects t where
  cfg := h.cfg
  x := h.x
  pc := h.pc
  st := h.st
  cyclesStart := h.cyclesStart
  totalCycles := h.totalCycles
  inRun := h.inRun
  timerActive := h.timerActive
  timerCyc := h.timerCyc
  timerStamp := h.timerStamp
  shiftreg := h.shiftreg
  ht := h.ht
  timerCb := h.timerCb
  intoutCb := h.intoutCb
  inbox := h.inbox
  results := h.results

/-- What a bus write can touch, an opcode handler can. -/
theorem State.OnlyStoreEffects.toHandler {s t : State} (h : s.OnlyStoreEffects t) : s.OnlyHandlerEffects t where
  cfg := h.cfg
  cyclesStart := h.cyclesStart
  totalCycles := h.totalCycles
  inRun := h.inRun
  timerActive := h.timerActive
  timerCyc := h.timerCyc
  timerStamp := h.timerStamp
  ht := h.ht
  timerCb := h.timerCb
  intoutCb := h.intoutCb
  inbox := h.inbox
  results := h.results

/-- A register write with no callback to run completes. -/
theorem State.writeRegister_completes (s : State) (run : RunCall) (a : Addr) (v : Word16) (h : s.intoutCb = none) :
    ∃ t, s.writeRegister run a v = .next t ∧ s.OnlyStoreEffects t := by
  have store : ∀ i w, s.OnlyStoreEffects (s.setIo i w) := fun i w => by constructor <;> rfl
  unfold State.writeRegister State.writeRegisterWith
  simp only
  split
  · refine ⟨_, rfl, (store (bankIndex s.cfg a) v).trans ?_⟩
    unfold State.recomputePixelshift
    split <;> constructor <;> rfl
  · split
    · refine ⟨_, rfl, (store (bankIndex s.cfg a) v).trans ?_⟩
      constructor <;> rfl
    · split
      · refine ⟨_, rfl, (store (bankIndex s.cfg a) v).trans ?_⟩
        unfold State.hstctlhWritten
        split <;> constructor <;> rfl
      · split
        · have intin : ∀ (u : State) old, u.OnlyStoreEffects (u.intinWritten old) := fun u old => by
            unfold State.intinWritten
            split <;> constructor <;> rfl
          have emitted : ∀ u : State, u.OnlyStoreEffects (u.emit .intOut) := fun u => by constructor <;> rfl
          unfold State.hstctllWritten State.callIntout
          split
          · simp only [State.emit_intoutCb, State.setIo_intoutCb, h]
            exact ⟨_, rfl, (store (bankIndex s.cfg a) v).trans ((emitted _).trans (intin _ _))⟩
          · exact ⟨_, rfl, (store (bankIndex s.cfg a) v).trans (intin _ _)⟩
        · split
          · exact ⟨_, rfl, (store (bankIndex s.cfg a) v).trans (by constructor <;> rfl)⟩
          · exact ⟨_, rfl, store (bankIndex s.cfg a) v⟩

/-- A 16-bit write with no callback to run completes, whatever its page is. -/
theorem State.memWrite16_completes (s : State) (a : Addr) (v : Word16) (h : s.intoutCb = none) :
    ∃ t, s.memWrite16 a v = .next t ∧ s.OnlyStoreEffects t := by
  unfold State.memWrite16
  simp only
  split
  · exact ⟨_, rfl, by constructor <;> rfl⟩
  · rename_i id _
    have emitted : s.OnlyStoreEffects (s.emit (.handlerWrite id (alignDown a) v)) := by constructor <;> rfl
    unfold State.handlerWrite
    simp only
    split
    · exact ⟨_, rfl, emitted⟩
    · obtain ⟨t, ht, hf⟩ := State.writeRegister_completes (s.emit (.handlerWrite id (alignDown a) v)) refuseRun (alignDown a) v h
      exact ⟨t, ht, emitted.trans hf⟩
    · exact ⟨_, rfl, emitted.trans
        (((State.tick_onlyBus _).trans (State.applyActions_onlyBus _ _)).toStore)⟩

/-- A 32-bit write with no callback to run completes, whatever its pages are. -/
theorem State.memWrite32_completes (s : State) (a : Addr) (v : Word32) (h : s.intoutCb = none) :
    ∃ t, s.memWrite32 a v = .next t ∧ s.OnlyStoreEffects t := by
  obtain ⟨t, ht, hf⟩ := s.memWrite16_completes (alignDown a) (firstHalf s.cfg.word32Order v) h
  obtain ⟨u, hu, hg⟩ := t.memWrite16_completes (alignDown a + 16#32) (secondHalf s.cfg.word32Order v) (hf.intoutCb.trans h)
  refine ⟨u, ?_, hf.trans hg⟩
  unfold State.memWrite32
  rw [ht, andThen_next, hu]

/-- SP after a write of SP. -/
@[simp] theorem State.sp_setSp (s : State) (v : Word32) : (s.setSp v).sp = v := by
  simp [State.sp, State.setSp, State.xAt_setX]

/-- A register but SP after a write of SP. -/
theorem State.xAt_setSp (s : State) (v : Word32) (i : Fin 31) (h : i ≠ slotSp) : (s.setSp v).xAt i = s.xAt i := by
  simp [State.setSp, State.xAt_setX, h]

/-- Equal register files have equal registers. -/
theorem State.xAt_congr {s t : State} (h : t.x = s.x) (i : Fin 31) : t.xAt i = s.xAt i := by
  unfold State.xAt; simp only [h]

/-- A push with no callback to run completes, moves SP down by 32 and no other register. -/
theorem State.push32_completes (s : State) (v : Word32) (h : s.intoutCb = none) :
    ∃ t, s.push32 v = .next t ∧ (s.setSp (s.sp - 32#32)).OnlyStoreEffects t := by
  obtain ⟨t, ht, hf⟩ := (s.setSp (s.sp - 32#32)).memWrite32_completes (s.sp - 32#32) v h
  refine ⟨t, ?_, hf⟩
  unfold State.push32
  simp only [State.sp_setSp, ht]

/-- The end of the entry sequence: `st`, `pc`, the latency and the event, and what its vector read can touch. -/
theorem State.enterVector_eq (s : State) (source : IntSource) (vec : Addr) :
    s.enterVector source vec =
      { ((s.setSt s.cfg.stInit).memRead32 vec).2 with
        pc := ((s.setSt s.cfg.stInit).memRead32 vec).1
        icounter := s.icounter - s.cfg.intLatency
        events := ((s.setSt s.cfg.stInit).memRead32 vec).2.events
          ++ [.interruptTaken source vec ((s.setSt s.cfg.stInit).memRead32 vec).1] } := by
  have h := State.memRead32_onlyBus (s.setSt s.cfg.stInit) vec
  have h1 := h.icounter
  have h2 := h.cfg
  unfold State.enterVector State.loadVector State.charge State.emit
  simp only [State.setPc_cfg, State.setPc_icounter, State.setPc_pc, State.setPc_events, h1, h2]
  rfl

end Sys2Proof.Machine
end

