-- ==== Sys2Proof/Laws/Interrupt.lean ====
section
/-! SUPPORT. The pending word by source, and the pop of the return sequence. -/

namespace Sys2Proof.Machine

variable (s : State)

/-- The bit of a maskable source in the pending word says that it is pending and enabled. -/
theorem State.irq_sourceBit (x : IntSource) (hx : x ∈ maskableSources) :
    s.irq.getLsbD (sourceBit s.cfg x).val = s.wants x := by
  have hb := srcMask_getLsbD s.cfg _ (sourceBit s.cfg x).isLt
  simp only [maskableSources, List.mem_cons, List.not_mem_nil, or_false] at hx
  simp only [State.irq, BitVec.getLsbD_and, hb, State.wants]
  rcases hx with rfl | rfl | rfl | rfl | rfl <;> simp [sourceBit]

/-- The pending word is 0 where no maskable source is pending and enabled. -/
theorem State.irq_eq_zero (h : ∀ x ∈ maskableSources, s.wants x = false) : s.irq = 0#16 := by
  apply BitVec.eq_of_getLsbD_eq
  intro j hj
  simp only [State.irq, BitVec.getLsbD_and, srcMask_getLsbD _ _ hj, BitVec.getLsbD_zero]
  simp only [maskableSources, List.forall_mem_cons, State.wants, sourceBit] at h
  obtain ⟨h1, h2, h3, h4, h5, _⟩ := h
  by_cases e : j = s.cfg.bitHi.val ∨ j = s.cfg.bitDi.val ∨ j = s.cfg.bitWv.val ∨ j = s.cfg.bitInt1.val
      ∨ j = s.cfg.bitInt2.val
  · rcases e with e | e | e | e | e <;> subst e <;> simp_all
  · simp [e]

/-- A pop gets what a read of SP gets, and moves SP up by 32 after it. -/
theorem State.pop32_eq : s.pop32 = ((s.memRead32 s.sp).1, (s.memRead32 s.sp).2.setSp (s.sp + 32#32)) := by
  have h : (s.memRead32 s.sp).2.sp = s.sp := State.xAt_congr (s.memRead32_onlyBus s.sp).x _
  unfold State.pop32
  simp only [h]

end Sys2Proof.Machine
end

