-- ==== Sys2Proof/Laws/Lifecycle.lean ====
section
/-! SUPPORT. What the caches' recomputation and the load of a save state leave in each field, and that reading back the
items of a save state gives what was saved. -/

namespace Sys2Proof.Machine

variable (s : State) (f : Saved)

@[simp] theorem State.recomputeRopSel_pc : s.recomputeRopSel.pc = s.pc := rfl
@[simp] theorem State.recomputeRopSel_st : s.recomputeRopSel.st = s.st := rfl
@[simp] theorem State.recomputeRopSel_icounter : s.recomputeRopSel.icounter = s.icounter := rfl
@[simp] theorem State.recomputeRopSel_totalCycles : s.recomputeRopSel.totalCycles = s.totalCycles := rfl
@[simp] theorem State.recomputeRopSel_cyclesStart : s.recomputeRopSel.cyclesStart = s.cyclesStart := rfl
@[simp] theorem State.recomputeRopSel_timerActive : s.recomputeRopSel.timerActive = s.timerActive := rfl
@[simp] theorem State.recomputeRopSel_timerCyc : s.recomputeRopSel.timerCyc = s.timerCyc := rfl
@[simp] theorem State.recomputeRopSel_stopFlag : s.recomputeRopSel.stopFlag = s.stopFlag := rfl
@[simp] theorem State.recomputeRopSel_line0 : s.recomputeRopSel.line0 = s.line0 := rfl
@[simp] theorem State.recomputeRopSel_line1 : s.recomputeRopSel.line1 = s.line1 := rfl
@[simp] theorem State.recomputeRopSel_timerStamp : s.recomputeRopSel.timerStamp = s.timerStamp := rfl
@[simp] theorem State.recomputeRopSel_x : s.recomputeRopSel.x = s.x := rfl
@[simp] theorem State.recomputeRopSel_inRun : s.recomputeRopSel.inRun = s.inRun := rfl
@[simp] theorem State.recomputeRopSel_timerCb : s.recomputeRopSel.timerCb = s.timerCb := rfl
@[simp] theorem State.recomputeRopSel_intoutCb : s.recomputeRopSel.intoutCb = s.intoutCb := rfl
@[simp] theorem State.recomputeRopSel_events : s.recomputeRopSel.events = s.events := rfl
@[simp] theorem State.recomputeRopSel_inbox : s.recomputeRopSel.inbox = s.inbox := rfl
@[simp] theorem State.recomputeRopSel_results : s.recomputeRopSel.results = s.results := rfl
@[simp] theorem State.recomputeRopSel_io : s.recomputeRopSel.io = s.io := rfl

@[simp] theorem State.recomputePixelshift_pc : s.recomputePixelshift.pc = s.pc := by
  unfold State.recomputePixelshift; split <;> rfl

@[simp] theorem State.recomputePixelshift_st : s.recomputePixelshift.st = s.st := by
  unfold State.recomputePixelshift; split <;> rfl

@[simp] theorem State.recomputePixelshift_icounter : s.recomputePixelshift.icounter = s.icounter := by
  unfold State.recomputePixelshift; split <;> rfl

@[simp] theorem State.recomputePixelshift_totalCycles : s.recomputePixelshift.totalCycles = s.totalCycles := by
  unfold State.recomputePixelshift; split <;> rfl

@[simp] theorem State.recomputePixelshift_cyclesStart : s.recomputePixelshift.cyclesStart = s.cyclesStart := by
  unfold State.recomputePixelshift; split <;> rfl

@[simp] theorem State.recomputePixelshift_timerActive : s.recomputePixelshift.timerActive = s.timerActive := by
  unfold State.recomputePixelshift; split <;> rfl

@[simp] theorem State.recomputePixelshift_timerCyc : s.recomputePixelshift.timerCyc = s.timerCyc := by
  unfold State.recomputePixelshift; split <;> rfl

@[simp] theorem State.recomputePixelshift_stopFlag : s.recomputePixelshift.stopFlag = s.stopFlag := by
  unfold State.recomputePixelshift; split <;> rfl

@[simp] theorem State.recomputePixelshift_line0 : s.recomputePixelshift.line0 = s.line0 := by
  unfold State.recomputePixelshift; split <;> rfl

@[simp] theorem State.recomputePixelshift_line1 : s.recomputePixelshift.line1 = s.line1 := by
  unfold State.recomputePixelshift; split <;> rfl

@[simp] theorem State.recomputePixelshift_timerStamp : s.recomputePixelshift.timerStamp = s.timerStamp := by
  unfold State.recomputePixelshift; split <;> rfl

@[simp] theorem State.recomputePixelshift_x : s.recomputePixelshift.x = s.x := by
  unfold State.recomputePixelshift; split <;> rfl

@[simp] theorem State.recomputePixelshift_timerCb : s.recomputePixelshift.timerCb = s.timerCb := by
  unfold State.recomputePixelshift; split <;> rfl

@[simp] theorem State.recomputePixelshift_intoutCb : s.recomputePixelshift.intoutCb = s.intoutCb := by
  unfold State.recomputePixelshift; split <;> rfl

@[simp] theorem State.recomputePixelshift_events : s.recomputePixelshift.events = s.events := by
  unfold State.recomputePixelshift; split <;> rfl

@[simp] theorem State.recomputePixelshift_inbox : s.recomputePixelshift.inbox = s.inbox := by
  unfold State.recomputePixelshift; split <;> rfl

@[simp] theorem State.recomputePixelshift_results : s.recomputePixelshift.results = s.results := by
  unfold State.recomputePixelshift; split <;> rfl

@[simp] theorem State.restore_pc : (s.restore f).pc = f.pc := by
  rw [State.restore, State.recomputeRopSel_pc, State.recomputePixelshift_pc]; simp only [State.restoreFields]

@[simp] theorem State.restore_st : (s.restore f).st = f.st := by
  rw [State.restore, State.recomputeRopSel_st, State.recomputePixelshift_st]; simp only [State.restoreFields]

@[simp] theorem State.restore_icounter : (s.restore f).icounter = f.icounter := by
  rw [State.restore, State.recomputeRopSel_icounter, State.recomputePixelshift_icounter]; simp only [State.restoreFields]

@[simp] theorem State.restore_totalCycles : (s.restore f).totalCycles = f.totalCycles := by
  rw [State.restore, State.recomputeRopSel_totalCycles, State.recomputePixelshift_totalCycles]; simp only [State.restoreFields]

@[simp] theorem State.restore_cyclesStart : (s.restore f).cyclesStart = f.cyclesStart := by
  rw [State.restore, State.recomputeRopSel_cyclesStart, State.recomputePixelshift_cyclesStart]; simp only [State.restoreFields]

@[simp] theorem State.restore_timerActive : (s.restore f).timerActive = f.timerActive := by
  rw [State.restore, State.recomputeRopSel_timerActive, State.recomputePixelshift_timerActive]; simp only [State.restoreFields]

@[simp] theorem State.restore_timerCyc : (s.restore f).timerCyc = f.timerCyc := by
  rw [State.restore, State.recomputeRopSel_timerCyc, State.recomputePixelshift_timerCyc]; simp only [State.restoreFields]

@[simp] theorem State.restore_shiftreg : (s.restore f).shiftreg = f.shiftreg := by
  rw [State.restore, State.recomputeRopSel_shiftreg, State.recomputePixelshift_shiftreg]; simp only [State.restoreFields]

@[simp] theorem State.restore_stopFlag : (s.restore f).stopFlag = f.stopFlag := by
  rw [State.restore, State.recomputeRopSel_stopFlag, State.recomputePixelshift_stopFlag]; simp only [State.restoreFields]

@[simp] theorem State.restore_line0 : (s.restore f).line0 = f.line0 := by
  rw [State.restore, State.recomputeRopSel_line0, State.recomputePixelshift_line0]; simp only [State.restoreFields]

@[simp] theorem State.restore_line1 : (s.restore f).line1 = f.line1 := by
  rw [State.restore, State.recomputeRopSel_line1, State.recomputePixelshift_line1]; simp only [State.restoreFields]

@[simp] theorem State.restore_timerStamp : (s.restore f).timerStamp = f.timerStamp := by
  rw [State.restore, State.recomputeRopSel_timerStamp, State.recomputePixelshift_timerStamp]; simp only [State.restoreFields]

@[simp] theorem State.restore_cfg : (s.restore f).cfg = s.cfg := by
  rw [State.restore, State.recomputeRopSel_cfg, State.recomputePixelshift_cfg]; simp only [State.restoreFields]

@[simp] theorem State.restore_inRun : (s.restore f).inRun = s.inRun := by
  rw [State.restore, State.recomputeRopSel_inRun, State.recomputePixelshift_inRun]; simp only [State.restoreFields]

@[simp] theorem State.restore_mem : (s.restore f).mem = s.mem := by
  rw [State.restore, State.recomputeRopSel_mem, State.recomputePixelshift_mem]; simp only [State.restoreFields]

@[simp] theorem State.restore_ht : (s.restore f).ht = s.ht := by
  rw [State.restore, State.recomputeRopSel_ht, State.recomputePixelshift_ht]; simp only [State.restoreFields]

@[simp] theorem State.restore_timerCb : (s.restore f).timerCb = s.timerCb := by
  rw [State.restore, State.recomputeRopSel_timerCb, State.recomputePixelshift_timerCb]; simp only [State.restoreFields]

@[simp] theorem State.restore_intoutCb : (s.restore f).intoutCb = s.intoutCb := by
  rw [State.restore, State.recomputeRopSel_intoutCb, State.recomputePixelshift_intoutCb]; simp only [State.restoreFields]

@[simp] theorem State.restore_events : (s.restore f).events = s.events := by
  rw [State.restore, State.recomputeRopSel_events, State.recomputePixelshift_events]; simp only [State.restoreFields]

@[simp] theorem State.restore_inbox : (s.restore f).inbox = s.inbox := by
  rw [State.restore, State.recomputeRopSel_inbox, State.recomputePixelshift_inbox]; simp only [State.restoreFields]

@[simp] theorem State.restore_results : (s.restore f).results = s.results := by
  rw [State.restore, State.recomputeRopSel_results, State.recomputePixelshift_results]; simp only [State.restoreFields]

theorem State.restore_x : (s.restore f).x = Vector.ofFn (fun i => f.x.getD i.val 0#32) := by
  rw [State.restore, State.recomputeRopSel_x, State.recomputePixelshift_x]; simp only [State.restoreFields]

theorem State.restore_io : (s.restore f).io = Vector.ofFn (fun i => f.io.getD i.val (s.ioAt i)) := by
  rw [State.restore, State.recomputeRopSel_io, State.recomputePixelshift_io]; simp only [State.restoreFields]

/-- Reading back `n` items of a kind that a list of `n` values was saved as. -/
theorem takeItems_map {α β : Type} (g : SaveItem → Option α) (c : α → SaveItem) (hc : ∀ a, g (c a) = some a)
    (l : List α) (rest : List SaveItem) (k : List α → List SaveItem → Option β) (n : Nat) (hn : l.length = n) :
    takeItems g n (List.append (l.map c) rest) k = k l rest := by
  subst hn
  induction l generalizing k with
  | nil => rfl
  | cons a l ih =>
    show takeItem g _ _ = _
    simp only [List.append, List.map, takeItem, hc]
    show takeItems g l.length (List.append (l.map c) rest) _ = _
    rw [ih]

/-- Reading back one item of a kind that a value was saved as. -/
theorem takeItem_cons {α β : Type} (g : SaveItem → Option α) (c : α → SaveItem) (hc : ∀ a, g (c a) = some a) (a : α)
    (rest : List SaveItem) (k : α → List SaveItem → Option β) : takeItem g (c a :: rest) k = k a rest := by
  unfold takeItem
  simp only [hc]

theorem State.saveCounters_append (rest : List SaveItem) : List.append s.saveCounters rest =
    SaveItem.int s.icounter :: SaveItem.nat s.totalCycles :: SaveItem.int s.cyclesStart :: SaveItem.bool s.timerActive ::
      SaveItem.int s.timerCyc :: rest := rfl

/-- The fields a save state holds. -/
def State.saved : Saved where
  pc := s.pc
  st := s.st
  x := s.x.toList
  io := s.savedIo
  icounter := s.icounter
  totalCycles := s.totalCycles
  cyclesStart := s.cyclesStart
  timerActive := s.timerActive
  timerCyc := s.timerCyc
  shiftreg := s.shiftreg
  stopFlag := s.stopFlag
  line0 := s.line0
  line1 := s.line1
  timerStamp := s.timerStamp

/-- A save state is read back as it was saved. -/
theorem readSaved_saveItems (h : s.shiftreg.length = s.cfg.shiftregBytes) :
    readSaved s.cfg s.saveItems = some s.saved := by
  have hx : s.x.toList.length = 31 := by simp
  have hi : s.savedIo.length = s.cfg.ioregCount := by
    have : s.cfg.ioregCount ≤ 64 := by unfold Params.ioregCount; split <;> omega
    simp [State.savedIo]
    omega
  unfold State.saveItems readSaved
  rw [takeItem_cons SaveItem.word32? SaveItem.word32 (fun _ => rfl),
    takeItem_cons SaveItem.word32? SaveItem.word32 (fun _ => rfl),
    takeItems_map SaveItem.word32? SaveItem.word32 (fun _ => rfl) _ _ _ _ hx,
    takeItems_map SaveItem.word16? SaveItem.word16 (fun _ => rfl) _ _ _ _ hi, s.saveCounters_append,
    takeItem_cons SaveItem.int? SaveItem.int (fun _ => rfl), takeItem_cons SaveItem.nat? SaveItem.nat (fun _ => rfl),
    takeItem_cons SaveItem.int? SaveItem.int (fun _ => rfl), takeItem_cons SaveItem.bool? SaveItem.bool (fun _ => rfl),
    takeItem_cons SaveItem.int? SaveItem.int (fun _ => rfl),
    takeItems_map SaveItem.byte? SaveItem.byte (fun _ => rfl) _ _ _ _ h]
  unfold State.saveLines
  rw [takeItem_cons SaveItem.bool? SaveItem.bool (fun _ => rfl),
    takeItem_cons SaveItem.level? SaveItem.level (fun _ => rfl),
    takeItem_cons SaveItem.level? SaveItem.level (fun _ => rfl), takeItem_cons SaveItem.nat? SaveItem.nat (fun _ => rfl)]
  unfold State.saved
  rfl

/-- When one item is taken from a source: its kind is the one asked for, and what follows goes on. -/
theorem takeItem_isSome {α β : Type} (f : SaveItem → Option α) (kind : SaveKind)
    (hf : ∀ item, (f item).isSome ↔ kindOf item = kind) (kinds : List SaveKind) (src : List SaveItem)
    (k : α → List SaveItem → Option β) (hk : ∀ v rest, (k v rest).isSome ↔ rest.map kindOf = kinds) :
    (takeItem f src k).isSome ↔ src.map kindOf = kind :: kinds := by
  cases src with
  | nil => simp [takeItem]
  | cons item rest =>
    have h1 := hf item
    unfold takeItem
    cases h : f item with
    | none => rw [h] at h1; simp at h1; simp [h, h1]
    | some v => rw [h] at h1; simp at h1; simp [h, h1, hk]

/-- When `n` items are taken from a source. -/
theorem takeItems_isSome {α β : Type} (f : SaveItem → Option α) (kind : SaveKind)
    (hf : ∀ item, (f item).isSome ↔ kindOf item = kind) (kinds : List SaveKind) (n : Nat) :
    ∀ (src : List SaveItem) (k : List α → List SaveItem → Option β)
      (_ : ∀ v rest, (k v rest).isSome ↔ rest.map kindOf = kinds),
      (takeItems f n src k).isSome ↔ src.map kindOf = List.replicate n kind ++ kinds := by
  induction n with
  | zero => exact fun src k hk => hk _ _
  | succ n ih => exact fun src k hk => takeItem_isSome f kind hf _ _ _ fun _ _ => ih _ _ fun _ _ => hk _ _

theorem word32_isSome (item : SaveItem) : (SaveItem.word32? item).isSome ↔ kindOf item = .word32 := by
  cases item <;> simp [SaveItem.word32?, kindOf]

theorem word16_isSome (item : SaveItem) : (SaveItem.word16? item).isSome ↔ kindOf item = .word16 := by
  cases item <;> simp [SaveItem.word16?, kindOf]

theorem byte_isSome (item : SaveItem) : (SaveItem.byte? item).isSome ↔ kindOf item = .byte := by
  cases item <;> simp [SaveItem.byte?, kindOf]

theorem int_isSome (item : SaveItem) : (SaveItem.int? item).isSome ↔ kindOf item = .int := by
  cases item <;> simp [SaveItem.int?, kindOf]

theorem nat_isSome (item : SaveItem) : (SaveItem.nat? item).isSome ↔ kindOf item = .nat := by
  cases item <;> simp [SaveItem.nat?, kindOf]

theorem bool_isSome (item : SaveItem) : (SaveItem.bool? item).isSome ↔ kindOf item = .bool := by
  cases item <;> simp [SaveItem.bool?, kindOf]

theorem level_isSome (item : SaveItem) : (SaveItem.level? item).isSome ↔ kindOf item = .level := by
  cases item <;> simp [SaveItem.level?, kindOf]

end Sys2Proof.Machine
end

