-- ==== Sys2Proof/Laws/Load.lean ====
section
/-! SUPPORT. Placing an instruction keeps the memory in its canonical form. -/

namespace Sys2Proof.Machine

variable (m : Memory)

/-- A longer list of buffers takes no byte away. -/
theorem Memory.bufLen_withCodePage (n : Params) (a : Addr) (b : Nat) : m.bufLen b ≤ (m.withCodePage n a).bufLen b := by
  unfold Memory.bufLen Memory.withCodePage
  simp only [List.getElem?_append]
  by_cases h : b < m.bufs.length
  · simp [h]
  · rw [List.getElem?_eq_none (by omega)]
    simp

/-- An entry that reaches still reaches where no buffer is shorter. -/
theorem Memory.entryOk_mono {m m' : Memory} (h : ∀ b, m.bufLen b ≤ m'.bufLen b) (n : Params) (e : PageEntry)
    (he : m.entryOk n e = true) : m'.entryOk n e = true := by
  cases e with
  | memory buf off =>
    have h1 := of_decide_eq_true he
    have h2 := h buf
    exact decide_eq_true ⟨h1.1, by omega⟩
  | handler id => exact he

/-- A fresh page keeps the canonical form. -/
theorem Memory.withCodePage_wf {n : Params} (hn : n.pagesOk) (a : Addr) (hm : m.wf n) : (m.withCodePage n a).wf n := by
  have mono := Memory.entryOk_mono (m.bufLen_withCodePage n a) n
  refine ⟨⟨sparseSet_wf hm.1.1 _ _, fun p hp => ?_⟩, ⟨hm.2.1.1, fun p hp => ?_⟩, fun b hb => ?_⟩
  · rcases mem_sparseSet hp with hp | ⟨rfl, _⟩
    · exact ⟨(hm.1.2 p hp).1, mono _ (hm.1.2 p hp).2⟩
    · refine ⟨Nat.mod_lt _ (Nat.pos_of_ne_zero fun e => by have := hn.2; rw [e] at this; simp at this),
        decide_eq_true ⟨Nat.zero_mod _, ?_⟩⟩
      simp [Memory.bufLen, Memory.withCodePage]
  · exact ⟨(hm.2.1.2 p hp).1, mono _ (hm.2.1.2 p hp).2⟩
  · rcases List.mem_append.1 hb with hb | hb
    · exact hm.2.2 b hb
    · rw [List.mem_singleton.1 hb]
      exact ⟨⟨List.Pairwise.nil, by simp⟩, by simp⟩

/-- Making an address readable keeps the canonical form. -/
theorem Memory.withReadable_wf {n : Params} (hn : n.pagesOk) (a : Addr) (hm : m.wf n) : (m.withReadable n a).wf n := by
  unfold Memory.withReadable
  split
  · split
    · exact hm
    · exact m.withCodePage_wf hn a hm
  · exact m.withCodePage_wf hn a hm

/-- Placing words keeps the canonical form. -/
theorem Memory.placeWords_wf {n : Params} (hn : n.pagesOk) (ws : List Word16) (a : Addr) (hm : m.wf n) :
    (Memory.placeWords n ws m a).wf n := by
  induction ws generalizing m a with
  | nil => exact hm
  | cons w ws ih =>
    apply ih
    unfold Memory.placeWord
    have h := m.withReadable_wf hn a hm
    dsimp only
    split
    · exact Memory.setWord_wf _ _ _ n w h
    · exact h

end Sys2Proof.Machine
end

