-- ==== Sys2Proof/Laws/PerInstr.lean ====
section
/-! SUPPORT. The length of every instruction's encoding (spec/30_encoding.md R137). -/

namespace Sys2Proof.Laws.EncodeLength

/-- An instruction's encoding has the number of words its format says, whichever half of an operand comes first. -/
def Statement (i : Instr) : Prop := ∀ ord : Word32Order, (encode ord i).length = instrWords i

theorem dispatch (w : Word16) : Statement (.dispatch w) := fun _ => rfl
theorem nop (n : RegNo) : Statement (.nop n) := fun _ => rfl
theorem movi (n : RegNo) (imm : Word32) : Statement (.movi n imm) := fun _ => rfl
theorem addi (n : RegNo) (imm : Word16) : Statement (.addi n imm) := fun _ => rfl
theorem dsj (n : RegNo) (disp : Word16) : Statement (.dsj n disp) := fun _ => rfl
theorem stl (n : RegNo) (addr : Addr) : Statement (.stl n addr) := fun _ => rfl
theorem ldl (n : RegNo) (addr : Addr) : Statement (.ldl n addr) := fun _ => rfl
theorem stw (n : RegNo) (addr : Addr) : Statement (.stw n addr) := fun _ => rfl
theorem ldw (n : RegNo) (addr : Addr) : Statement (.ldw n addr) := fun _ => rfl
theorem eint (n : RegNo) : Statement (.eint n) := fun _ => rfl
theorem dint (n : RegNo) : Statement (.dint n) := fun _ => rfl
theorem reti (n : RegNo) : Statement (.reti n) := fun _ => rfl
theorem jmpa (n : RegNo) (addr : Addr) : Statement (.jmpa n addr) := fun _ => rfl
theorem tstop (n : RegNo) : Statement (.tstop n) := fun _ => rfl

end Sys2Proof.Laws.EncodeLength
end

