-- ==== Sys2Proof/Laws/Scanline.lean ====
section
/-! SUPPORT. The I/O bank after the part of a scanline step that precedes the render call. -/

namespace Sys2Proof.Machine

variable {s : State}

/-- VCOUNT, the display interrupt and the reload, register by register. -/
theorem State.beginLine_ioAt (hw : s.cfg.wf) (line : Int) (i : Fin 64) : (s.beginLine line).ioAt i =
    if i = s.cfg.ioIndex.dpyadr then
      (if line = s.ioLine s.cfg.ioIndex.vsblnk then s.ioAt s.cfg.ioIndex.dpystrt else s.ioAt s.cfg.ioIndex.dpyadr)
    else if i = s.cfg.ioIndex.intpend then
      (if (s.ioAt s.cfg.ioIndex.dpyctl).getLsbD s.cfg.dpyEnvBit.val ∧ line = s.ioLine s.cfg.ioIndex.dpyint then
        setBit16 (s.ioAt s.cfg.ioIndex.intpend) s.cfg.bitDi true
      else s.ioAt s.cfg.ioIndex.intpend)
    else if i = s.cfg.ioIndex.vcount then BitVec.ofInt 16 line
    else s.ioAt i := by
  have hx := fun i j => Params.index_ne hw i j
  have n1 : s.cfg.ioIndex.vcount ≠ s.cfg.ioIndex.intpend := hx 24 18 (by decide)
  have n2 : s.cfg.ioIndex.vcount ≠ s.cfg.ioIndex.dpyadr := hx 24 25 (by decide)
  have n3 : s.cfg.ioIndex.intpend ≠ s.cfg.ioIndex.dpyadr := hx 18 25 (by decide)
  have n4 : s.cfg.ioIndex.dpyctl ≠ s.cfg.ioIndex.vcount := hx 8 24 (by decide)
  have n5 : s.cfg.ioIndex.dpyint ≠ s.cfg.ioIndex.vcount := hx 10 24 (by decide)
  have n6 : s.cfg.ioIndex.vsblnk ≠ s.cfg.ioIndex.vcount := hx 6 24 (by decide)
  have n7 : s.cfg.ioIndex.vsblnk ≠ s.cfg.ioIndex.intpend := hx 6 18 (by decide)
  have n8 : s.cfg.ioIndex.dpystrt ≠ s.cfg.ioIndex.vcount := hx 9 24 (by decide)
  have n9 : s.cfg.ioIndex.dpystrt ≠ s.cfg.ioIndex.intpend := hx 9 18 (by decide)
  have c1 : (s.setCurrentLine line).cfg = s.cfg := rfl
  have e1 : ∀ i, (s.setCurrentLine line).ioAt i = if i = s.cfg.ioIndex.vcount then BitVec.ofInt 16 line else s.ioAt i :=
    fun i => State.ioAt_setIo _ _ _ _
  unfold State.beginLine
  generalize s.setCurrentLine line = a at c1 e1 ⊢
  have c2 : (a.raiseDisplayInterrupt line).cfg = s.cfg := by
    unfold State.raiseDisplayInterrupt State.setPending; split <;> simp [c1]
  have e2 : ∀ i, (a.raiseDisplayInterrupt line).ioAt i = if i = s.cfg.ioIndex.intpend then
      (if (s.ioAt s.cfg.ioIndex.dpyctl).getLsbD s.cfg.dpyEnvBit.val ∧ line = s.ioLine s.cfg.ioIndex.dpyint then
        setBit16 (s.ioAt s.cfg.ioIndex.intpend) s.cfg.bitDi true
      else s.ioAt s.cfg.ioIndex.intpend) else a.ioAt i := by
    intro i
    unfold State.raiseDisplayInterrupt State.ioLine State.setPending
    rw [c1, e1 s.cfg.ioIndex.dpyctl, e1 s.cfg.ioIndex.dpyint, if_neg n4, if_neg n5]
    split
    · rw [State.ioAt_setIo, e1 s.cfg.ioIndex.intpend, if_neg (Ne.symm n1)]
    · split
      · rename_i h; rw [h, e1, if_neg (Ne.symm n1)]
      · rfl
  generalize a.raiseDisplayInterrupt line = b at c2 e2 ⊢
  unfold State.reloadDisplayAddress State.ioLine
  rw [c2, e2 s.cfg.ioIndex.vsblnk, if_neg n7, e1, if_neg n6]
  rw [e2 s.cfg.ioIndex.dpystrt, if_neg n9, e1, if_neg n8]
  by_cases hl : line = ((s.ioAt s.cfg.ioIndex.vsblnk).toNat : Int)
  · rw [if_pos hl, if_pos hl, State.ioAt_setIo, e2, e1]; rfl
  · rw [if_neg hl, if_neg hl, e2, e1]
    by_cases hi : i = s.cfg.ioIndex.dpyadr
    · rw [if_pos hi, hi, if_neg (Ne.symm n3), if_neg (Ne.symm n2)]
    · rw [if_neg hi]; rfl

end Sys2Proof.Machine
end

