-- ==== Sys2Proof/Tests/Slice0.lean ====
section
/-! SUPPORT. Tests on fixed values, their results from the spec's encodings (30_encoding.md, 45_test_handlers.md), its
vectors (95_test_vectors.md) and hand calculation; then a witness for the hypotheses of every statement. -/

namespace Sys2Proof.Tests

open Sys2Proof Sys2Proof.Machine

/-! Helpers. -/

/-- The default parameters with values for the two OPEN numbers. -/
def cfg : Params := { Params.default with cpl := 100, shiftregBytes := 4 }

/-- Page 0 is a RAM, the I/O bank is on the page of IO_BASE, the last page holds the vectors. -/
def pages : List (Nat × PageEntry) := [(0, .memory 0 0), (98304, .handler 1), (131071, .memory 1 0)]

/-- A cut of setup S0 (95_test_vectors.md) inside a run: VEC_RESET and VEC_NMI give 0x100 and 0x200. -/
def setup (ram : List Host.Cell) : State :=
  { State.init cfg [{ len := 4096, cells := ram }, { len := 4096, cells := [(4060, 2), (4092, 1)] }] with
    pc := 0x100
    st := 0x00000010
    io := (Vector.replicate 64 0#16).set 21 1#16
    inRun := true
    icounter := 100
    cyclesStart := 100
    mem := {
      rmap := pages
      wmap := pages
      bufs := [{ len := 4096, cells := ram }, { len := 4096, cells := [(4060, 2), (4092, 1)] }] }
    ht := (List.replicate 32 ({ rd := .openBus, wr := .openBus } : BusFns)).set 1 { rd := .ioBank, wr := .ioBank } }

/-- Whether an outcome is a next state with a property. -/
def after {α : Type} (o : Result α) (p : α → Bool) : Bool :=
  match o with
  | .next t => p t
  | .fault _ => false
  | .refused _ => false

/-- The setup with SP at `v`. -/
def withSp (ram : List Host.Cell) (v : Word32) : State := (setup ram).setSp v

/-! Well-formedness: each check refuses an ill-formed term. -/

theorem test_wf_refuses_assigned_dispatch : (Instr.dispatch 0x00CF).wellFormed .th = false := by decide
theorem test_wf_refuses_th_under_platform : (Instr.nop 0).wellFormed .platform = false := by decide
theorem test_wf_refuses_th_store_under_platform : (Instr.stl 3 0x40).wellFormed .platform = false := by decide
theorem test_params_wf_refuses_set_ie : ¬ ({ cfg with stInit := 0x00200010#32 } : Params).wf := by decide
theorem test_params_wf_refuses_zero_cpl : ¬ ({ cfg with cpl := 0 } : Params).wf := by decide
theorem test_memory_wf_refuses_default_entry :
    ¬ ({ rmap := [(0, .handler 0)], wmap := [], bufs := [] } : Memory).wf cfg := by decide
theorem test_memory_wf_refuses_short_block :
    ¬ ({ rmap := [(0, .memory 0 0)], wmap := [], bufs := [{ len := 4095, cells := [] }] } : Memory).wf cfg := by decide
theorem test_params_wf_refuses_small_page : ¬ ({ cfg with pageBytes := 4, pageCount := 2 ^ 27 } : Params).wf := by decide
theorem test_params_wf_refuses_short_table : ¬ ({ cfg with pageCount := 65536 } : Params).wf := by decide

/-! Decoding: every constructor from bytes written out from R136 to R139 (high byte of a word first, R103). -/

theorem test_decode_dispatch : decode .th .lowFirst [0x00, 0xD0] = .ok (.dispatch 0x00D0#16) [] := by decide
theorem test_decode_nop : decode .th .lowFirst [0x00, 0x0F] = .ok (.nop 15) [] := by decide
theorem test_decode_movi :
    decode .th .lowFirst [0x00, 0x10, 0x00, 0x05, 0x00, 0x00] = .ok (.movi 0 0x00000005#32) [] := by decide
theorem test_decode_addi : decode .th .lowFirst [0x00, 0x21, 0x00, 0x03] = .ok (.addi 1 0x0003#16) [] := by decide
theorem test_decode_dsj : decode .th .lowFirst [0x00, 0x3E, 0x7F, 0xFF] = .ok (.dsj 14 0x7FFF#16) [] := by decide
theorem test_decode_stl :
    decode .th .lowFirst [0x00, 0x41, 0x10, 0x00, 0x00, 0x00] = .ok (.stl 1 0x00001000#32) [] := by decide
theorem test_decode_ldl :
    decode .th .lowFirst [0x00, 0x52, 0x80, 0x00, 0x00, 0x01] = .ok (.ldl 2 0x00018000#32) [] := by decide
theorem test_decode_stw :
    decode .th .lowFirst [0x00, 0x62, 0x01, 0x10, 0xC0, 0x00] = .ok (.stw 2 0xC0000110#32) [] := by decide
theorem test_decode_ldw :
    decode .th .highFirst [0x00, 0x73, 0xC0, 0x00, 0x01, 0x10] = .ok (.ldw 3 0xC0000110#32) [] := by decide
theorem test_decode_eint : decode .th .lowFirst [0x00, 0x80] = .ok (.eint 0) [] := by decide
theorem test_decode_dint : decode .th .lowFirst [0x00, 0x91] = .ok (.dint 1) [] := by decide
theorem test_decode_reti : decode .th .lowFirst [0x00, 0xA0, 0x12] = .ok (.reti 0) [0x12] := by decide
theorem test_decode_jmpa :
    decode .th .lowFirst [0x00, 0xB0, 0x01, 0x00, 0x00, 0x00] = .ok (.jmpa 0 0x00000100#32) [] := by decide
theorem test_decode_tstop : decode .th .lowFirst [0x00, 0xC0] = .ok (.tstop 0) [] := by decide
theorem test_decode_platform : decode .platform .lowFirst [0x00, 0x10] = .ok (.dispatch 0x0010#16) [] := by decide
theorem test_decode_refuses_short : decode .th .lowFirst [0x00] = .refused .noOpcodeWord := by decide
theorem test_decode_refuses_missing_half :
    decode .th .lowFirst [0x00, 0x10, 0x12, 0x34] = .refused (.missingOperand 0x0010#16) := by decide
theorem test_encode_movi : encode .lowFirst (.movi 2 0x00020003#32) = [0x0012#16, 0x0003#16, 0x0002#16] := by decide

/-! One step of each instruction (45_test_handlers.md). -/

theorem test_nop : after (exec (.nop 0) (setup [])) (fun t => t.icounter == 99 && t.pc == 0x100) = true := by decide
theorem test_nop_step : after (step (setup [])) (fun t => t.icounter == 99 && t.pc == 0x110) = true := by decide
theorem test_movi : after (exec (.movi 15 0x8000) (setup [])) (fun t => t.sp == 0x8000 && t.icounter == 97) = true := by
  decide
theorem test_addi_wraps :
    after (exec (.addi 0 0xFFFE) ((setup []).setA 0 1)) (fun t => t.a 0 == 0xFFFFFFFF && t.icounter == 98) = true := by
  decide
-- R233: at 0x180 with displacement -4, the branch goes to 0x1A0 - 0x40.
theorem test_dsj_taken : after (exec (.dsj 0 0xFFFC) (((setup []).setA 0 2).setPc 0x1A0))
    (fun t => t.a 0 == 1 && t.pc == 0x160 && t.icounter == 97) = true := by decide
theorem test_dsj_falls_through : after (exec (.dsj 0 0xFFFC) (((setup []).setA 0 1).setPc 0x1A0))
    (fun t => t.a 0 == 0 && t.pc == 0x1A0 && t.icounter == 98) = true := by decide
-- M12: the low half at the lower address, each half high byte first.
theorem test_stl_bytes : after (exec (.stl 1 0x4F) ((setup []).setA 1 0xAABBCCDD))
    (fun t => [8, 9, 10, 11].map (t.mem.byteAt 0) == [0xCC, 0xDD, 0xAA, 0xBB] && t.icounter == 96) = true := by decide
theorem test_ldl : after (exec (.ldl 2 0x48) (setup [(8, 0xCC), (9, 0xDD), (10, 0xAA), (11, 0xBB)]))
    (fun t => t.a 2 == 0xAABBCCDD && t.icounter == 96) = true := by decide
-- M14: the high half comes from an unmapped page.
theorem test_ldl_half_unmapped :
    after (exec (.ldl 2 0x7FF0) (setup [(4094, 0x12), (4095, 0x34)])) (fun t => t.a 2 == 0xFFFF1234) = true := by decide
theorem test_stw_intenb : after (exec (.stw 2 0xC0000110) ((setup []).setA 2 0xFFFF0602))
    (fun t => t.io[17] == 0x0602 && t.icounter == 97) = true := by decide
theorem test_ldw_zero_extends : after (exec (.ldw 3 0x10) (setup [(2, 0x92), (3, 0x34)]))
    (fun t => t.a 3 == 0x00009234 && t.icounter == 97) = true := by decide
theorem test_eint : after (exec (.eint 0) (setup [])) (fun t => t.st == 0x00200010 && t.icounter == 99) = true := by decide
theorem test_dint :
    after (exec (.dint 0) ((setup []).setSt 0xFFFFFFFF)) (fun t => t.st == 0xFFDFFFFF && t.icounter == 99) = true := by
  decide
-- W7, the stack a little lower: st lies at SP, pc above it.
def stacked : State :=
  withSp [(0xFC8, 0x00), (0xFC9, 0x10), (0xFCA, 0x00), (0xFCB, 0x20), (0xFCC, 0x01), (0xFCD, 0xA0)] 0x7E40
theorem test_reti : after (exec (.reti 0) stacked)
    (fun t => t.st == 0x00200010 && t.pc == 0x000001A0 && t.sp == 0x7E80 && t.icounter == 92) = true := by decide
theorem test_jmpa_keeps_low_bits :
    after (exec (.jmpa 0 0x0000010B) (setup [])) (fun t => t.pc == 0x0000010B && t.icounter == 97) = true := by decide
theorem test_tstop : after (exec (.tstop 0) (setup [])) (fun t => t.stopFlag && t.icounter == 99) = true := by decide
-- L10.
theorem test_dispatch_unassigned :
    exec (.dispatch 0x1234) (setup []) = .refused (.unassignedTestOpcode 0x1234#16 (setup [])) := rfl
theorem test_dispatch_runs_movi :
    after (exec (.dispatch 0x0011) (setup [(32, 0x12), (33, 0x34), (35, 0x05)]))
      (fun t => t.a 1 == 0x00051234 && t.pc == 0x120 && t.icounter == 97) = true := by decide

/-! The memory router, the bank, the timer and the interrupts. -/

-- M1.
theorem test_page : [0x00000010#32, 0x00008000, 0xC0000000, 0xFFFFFFE0].map (page cfg) = [0, 1, 0x18000, 0x1FFFF] := by
  decide
-- M10.
theorem test_read8 : [0x10#32, 0x18, 0x1F].map (fun a => ((setup [(2, 0x12), (3, 0x34)]).memRead8 a).1) = [0x12, 0x34, 0x34] := by
  decide
-- M15 to M17.
theorem test_bank_reads :
    ((((setup []).setIo 17 0x0602).memRead8 0xC0000110).1, (((setup []).setIo 17 0x0602).memRead8 0xC0000118).1,
      (((setup []).setIo 17 0x0602).memRead16 0xC0000310).1) = (0x06#8, 0x02#8, 0x0602#16) := by decide
-- M2 to M6.
theorem test_map_memory : [(0x10, 0xFFF, 3), (0, 0xFFE, 3), (0, 0x1FFF, 3), (0, 0xFFF, 4), (0, 0xFFF, 0)].map
    (fun r => ((setup []).mapMemory 0 r.1 r.2.1 r.2.2).1) = [false, false, false, false, true] := by decide
-- M8.
theorem test_set_handler : [0, 32, 31].map (fun id => ((setup []).setHandler id .ioBank .openBus).1) = [false, false, true] := by
  decide
-- S1, S2.
theorem test_register_views : (((setup []).setA 15 0x1234).b 15, slotB 0, slotB 14) = (0x1234#32, 30, 16) := by decide
-- S3.
theorem test_reported : ({ setup [] with totalCycles := 500, icounter := 40 } : State).reported = 560 := by decide
-- W10.
theorem test_pixelshift : [1, 2, 4, 8, 16, 32, 0, 3, 64].map pixelshiftOf
    = [some 0, some 1, some 2, some 3, some 4, some 5, none, none, none] := by decide
-- W11.
theorem test_refcnt : [1600, 15, 16, 16 * 65536 + 32].map refcnt = [100#16, 0, 1, 2] := by decide
theorem test_hcount : hcount { cfg with cpl := 400 } 1000 ((Vector.replicate 64 0#16).set 3 99#16) = 50#16 := by decide
-- R315: a written 0 clears HI, and INT1 is not the write's to change.
theorem test_intpend_write : intpendAfterWrite cfg 0x0602 0xFDFD = 0x0402#16 := by decide
-- W4.
theorem test_timer_counts_down :
    after (((setup []).timerArm 100).checkTimer refuseRun 60) (fun t => t.timerActive && t.timerCyc == 40) = true := by decide
-- T5: TimerFired, then the fault.
theorem test_timer_unwired : ((setup []).timerArm 10).checkTimer refuseRun 10
    = .fault (.unwiredPeripheral { setup [] with events := [.timerFired] }) := rfl
/-- Vector R2's machine in its run, with nothing mapped. -/
def unmapped0 : State := { State.init cfg [] with inRun := true, icounter := 1 }
theorem test_unmapped_fetch : step (unmapped0.setPc 0xFFFFFFFF) = .refused (.unassignedTestOpcode 0xFFFF
    { unmapped0 with events := [.misalignedFetch 0xFFFFFFFF, .handlerRead 0 0xFFFFFFF0 .w16 0xFFFF] }) := rfl
-- W7.
def interrupted : State := { withSp [] 0x7EC0 with pc := 0x1A0, st := 0x00200010 }
theorem test_take : after (interrupted.take .nmi 0xFFFFFEE0) (fun t =>
    (List.range 8).map (fun k => t.mem.byteAt 0 (0xFD0 + k)) == [0x00, 0x10, 0x00, 0x20, 0x01, 0xA0, 0x00, 0x00]
      && t.sp == 0x7E80 && t.st == 0x10 && t.pc == 0x00000200 && t.icounter == 84) = true := by decide
-- R272, with the defaults of Table P.
theorem test_vectors : [.nmi, .hi, .di, .wv, .int1, .int2].map (vectorOf cfg)
    = [0xFFFFFEE0#32, 0xFFFFFEC0, 0xFFFFFEA0, 0xFFFFFE80, 0xFFFFFFC0, 0xFFFFFFA0] := by decide
-- W6: host, display and external 1 pending together.
theorem test_priority : (highest cfg 0x0602, highest cfg 0x0402, highest cfg 0x0002, highest cfg 0x0004)
    = (.hi, .di, .int1, .int2) := by decide
-- W5, lines 100 and 261.
def lines : State :=
  (((setup []).setIo 7 262).setIo 8 0x8000).setIo 10 100
theorem test_scanline_display_interrupt :
    after (lines.generateScanline refuseRun 100 none) (fun r => r.1 == 101 && r.2.io[18] == 0x0400) = true := by decide
theorem test_scanline_wraps :
    after (lines.generateScanline refuseRun 261 none) (fun r => r.1 == 0 && r.2.io[18] == 0) = true := by decide
-- W12.
theorem test_halted_run :
    after (step { (setup []).setIo 16 0x8000 with inRun := false, inbox := [.run 100] })
      (fun t => t.results == [.consumed 0] && t.pc == 0x100 && !t.inRun) = true := by decide
-- Log 11.
theorem test_reset_state : (State.init .default []).resetOp = .next State.reset := rfl
theorem test_fetch_word :
    after (step (State.reset.withFetchWord 48 0x000500000011)) (fun t => t.a 1 == 0x00050000 && t.icounter == -2) = true := by
  decide

/-! Witnesses: for every statement with hypotheses, a state and operands that meet them, clause by clause. -/

theorem setup_table (ram : List Host.Cell) : (setup ram).cfg.handlers = .th := rfl

/-- Words found one by one are found. -/
theorem wordsAt_of_peeks {s : State} {a : Addr} {ws : List Word16}
    (h : (List.range ws.length).all (fun j =>
      s.peek16 (alignDown a + 16#32 * BitVec.ofNat 32 j) == ws[j]?) = true) : s.wordsAt a ws := by
  intro j w hj
  have hl : j < ws.length := by
    rcases Nat.lt_or_ge j ws.length with hl | hl
    · exact hl
    · rw [List.getElem?_eq_none hl] at hj; cases hj
  have := List.all_eq_true.1 h j (List.mem_range.2 hl)
  rw [beq_iff_eq.1 this, hj]

theorem witness_DecodeEncodeRoundTrip :
    (Instr.stw 15 0xFFFFFFFF).wellFormed .th = true ∧ (Instr.dispatch 0x00D0).wellFormed .th = true
    ∧ (Instr.dispatch 0x0000).wellFormed .platform = true := by decide
theorem witness_EncodeDecodeRoundTrip :
    decode .th .highFirst [0x00, 0x41, 0x10, 0x00, 0x00, 0x00, 0x77] = .ok (.stl 1 0x10000000#32) [0x77] := by decide
theorem witness_DecodeRefusesOnlyMissingWords :
    decode .th .lowFirst [0x00, 0x20, 0x12] = .refused (.missingOperand 0x0020#16) := by decide

/-- MOVI A1, 0x00051234 at 0x100. -/
def atMovi : State := { setup [(32, 0x00), (33, 0x11), (34, 0x12), (35, 0x34), (36, 0x00), (37, 0x05)] with pc := 0x10F }
theorem witness_StepRunsDecodedInstruction :
    atMovi.quietIteration ∧ atMovi.peek16 atMovi.pc = some 0x0011#16
    ∧ atMovi.wordsAt atMovi.operandAddr [0x1234#16, 0x0005#16]
    ∧ decode atMovi.cfg.handlers atMovi.cfg.word32Order (layWords [0x0011#16, 0x1234#16, 0x0005#16])
      = .ok (.movi 1 0x00051234#32) [] :=
  ⟨by decide, by decide, wordsAt_of_peeks (by decide), by decide⟩

/-- An NMI is requested; a TSTOP lies at its routine, 0x200. -/
def atNmi : State := (withSp [(65, 0xC0)] 0x7EC0).setIo 16 0x0100
/-- What its entry leaves. -/
def afterNmi : State := { (withSp [(65, 0xC0), (4049, 0x10), (4052, 0x01)] 0x7E80) with
  pc := 0x200, icounter := 84, events := [.interruptTaken .nmi 0xFFFFFEE0 0x200] }
theorem witness_StepServicesInterruptsFirst :
    atNmi.inRun = true ∧ 0 < atNmi.icounter ∧ atNmi.stopFlag = false ∧ atNmi.serviceInterrupts = .next afterNmi
    ∧ afterNmi.peek16 afterNmi.pc = some 0x00C0#16 ∧ afterNmi.wordsAt afterNmi.operandAddr []
    ∧ decode afterNmi.cfg.handlers afterNmi.cfg.word32Order (layWords [0x00C0#16]) = .ok (.tstop 0) [] :=
  ⟨by decide, by decide, by decide, by rfl, by decide, wordsAt_of_peeks (by decide), by decide⟩

theorem witness_ThInstructions : (setup []).cfg.handlers = .th := rfl
theorem witness_DsjResult :
    ((setup []).setA 0 2).a 0 - 1#32 ≠ 0#32 ∧ ¬((setup []).setA 0 1).a 0 - 1#32 ≠ 0#32 := by decide
theorem witness_UnassignedWordRefused :
    (setup []).cfg.handlers = .th ∧ 0x00D0 ≤ (0x00D0#16).toNat ∧ ((setup []).setPc 0x8000).quietIteration
    ∧ ((setup []).setPc 0x8000).openRead ((setup []).setPc 0x8000).pc := by decide
theorem witness_DispatchRunsTheInstruction :
    (0x0021#16).toNat < 0x00D0 ∧ (setup [(32, 0xFF)]).wordsAt 0x100 [0xFF00#16]
    ∧ decode .th .lowFirst (layWords [0x0021#16, 0xFF00#16]) = .ok (.addi 1 0xFF00#16) [] :=
  ⟨by decide, wordsAt_of_peeks (by decide), by decide⟩
theorem witness_HandlerContract :
    (setup []).intoutCb = none ∧ runHandler (.writePc 0x40 (.ret 3)) (setup [])
      = .next { setup [] with pc := 0x40, icounter := 97 } := ⟨rfl, rfl⟩
/-- The setup with a handler table of the platform's. -/
def platformTable : State := { setup [] with cfg := { cfg with handlers := .platform, dispatchShift := 9 } }
theorem witness_HandlerContract_platform : platformTable.cfg.handlers = .platform := rfl
theorem witness_HandlerContract_direct :
    directHandler (.read fun s => .writeSt s.st (.setWv (.ret 2)))
    ∧ runHandler (.read fun s => .writeSt s.st (.setWv (.ret 2))) (setup [])
      = .next { (setup []).setIo 18 0x0800 with icounter := 98 } := ⟨fun _ => trivial, rfl⟩

theorem setup_mem : (setup []).mem.wf (setup []).cfg := by decide
theorem witness_StoresToMemory :
    (setup []).cfg.wf ∧ (setup []).mem.wf (setup []).cfg
    ∧ (setup []).storePlace 0x7FFF = some (0, 4094) ∧ (setup []).storePlace 0x7FE3 = some (0, 4092)
    ∧ (setup []).storePlace (alignDown 0x7FE3 + 16#32) = some (0, 4094) := by decide
theorem witness_StoresToOpenBus :
    (setup []).openWrite 0x8000 ∧ (setup []).openWrite (alignDown 0x8000 + 16#32) := by decide
theorem witness_StoresComplete : (setup []).intoutCb = none := rfl
theorem witness_StoresToIoBank :
    (setup []).bankWrite 1 0xC0000105 ∧ (setup []).bankWrite 1 (alignDown 0xC0000105 + 16#32)
    ∧ (setup []).intoutCb = none ∧ (setup []).cfg.wf
    ∧ bankIndex (setup []).cfg 0xC0000105 = (setup []).cfg.ioIndex.hstctlh
    ∧ ((((setup []).setA 4 0x8000).a 4).extractLsb' 0 16).getLsbD (setup []).cfg.hstHltBit.val = true
    ∧ (setup []).inRun = true := by decide
-- R319: INTENB takes the low half and INTPEND, of which HI is pending, the high half.
theorem test_stl_bank : after (exec (.stl 1 0xC0000110) (((setup []).setA 1 0xFDFF0206).setIo 18 0x0602))
    (fun t => t.io[17] == 0x0206 && t.io[18] == 0x0402 && t.icounter == 96) = true := by decide
/-- The setup with functions of the platform's in slot 1. -/
def withDevice : State := ((setup []).setHandler 1 (.platform 3) (.platform 4)).2
theorem witness_BusHandlerActions :
    withDevice.mem.readEntry withDevice.cfg (alignDown 0xC0000019) = .handler 1
    ∧ withDevice.mem.readEntry withDevice.cfg 0xC0000019 = .handler 1
    ∧ withDevice.mem.writeEntry withDevice.cfg (alignDown 0xC0000019) = .handler 1
    ∧ (withDevice.slot 1).rd = .platform 3 ∧ (withDevice.slot 1).wr = .platform 4 := by decide
-- R92: actions in order; the page that the first one maps is unmapped again by the second.
theorem test_actions :
    let t := (setup []).applyActions [.mapMemory 1 0x1000 0x1FFF 1, .mapHandler 0 0x1000 0x1FFF 1, .setIrqLine 1 .hold, .stop]
    t.mem.readEntry t.cfg 0x8000 = .handler 0 ∧ t.io[18] = 0x0004#16 ∧ t.line1 = .hold ∧ t.stopFlag = true := by decide
theorem witness_LoadsFromMemoryAndOpenBus :
    (setup [(4, 0x12)]).peek32 0x27 = some 0x00001200#32 ∧ (setup [(4, 0x12)]).peek16 0x2F = some 0x1200#16
    ∧ (setup []).openRead 0x8000 ∧ (setup []).openRead (alignDown 0x8000 + 16#32)
    ∧ (setup []).mem.readEntry cfg 0x800F = .handler 0 ∧ ((setup []).slot 0).rd = .openBus := by decide
theorem witness_LoadsFromIoBank :
    (setup []).bankRead 1 0xC00001E5 ∧ (setup []).bankRead 1 (alignDown 0xC00001E5 + 16#32)
    ∧ (setup []).mem.readEntry cfg 0xC000017F = .handler 1 ∧ ((setup []).slot 1).rd = .ioBank := by decide
-- R105: A[3] picks the byte.
theorem test_bank_byte : [0xC0000177#32, 0xC0000178].map (fun a => (((setup []).setIo 23 0x1234).memRead8 a).1)
    = [0x12#8, 0x34] := by decide
theorem witness_ReadAfterWrite_buffer :
    let s : State := { setup [] with inRun := false, inbox := [.writeBuffer 1 4095 7] }
    s.cfg.wf ∧ s.mem.wf s.cfg ∧ s.inRun = false ∧ s.inbox = .writeBuffer 1 4095 7 :: []
    ∧ 4095 < s.mem.bufLen 1 := by decide
theorem witness_ReadAfterWrite :
    (setup []).cfg.wf ∧ (setup []).mem.wf (setup []).cfg ∧ (setup []).ramWord 0x7FFF ∧ (setup []).ramLong 0x7FE0 :=
  ⟨by decide, by decide, ⟨0, 0, by decide, by decide⟩, ⟨0, 0, by decide, by decide⟩, ⟨0, 0, by decide, by decide⟩⟩
theorem witness_ByteOrder : cfg.wf ∧ (setup [(4094, 0x12), (4095, 0x34)]).peek16 0x7FFF = some 0x1234#16 := by decide
theorem witness_MapOperations :
    (setup []).cfg.wf ∧ (setup []).mem.wf (setup []).cfg
    ∧ ((setup []).mapMemory 1 0x1000 0x1FFF 3).1 = true ∧ ((setup []).mapMemory 1 0x1000 0x2FFF 3).1 = false
    ∧ ((setup []).mapHandler 31 0x1FFFF000 0x1FFFFFFF 2).1 = true
    ∧ ((setup []).mapHandler 32 0x1FFFF000 0x1FFFFFFF 2).1 = false
    ∧ (2).testBit 1 = true ∧ (3).testBit 0 = true
    ∧ 0x1000 ≤ byteAddr 0x8000 ∧ byteAddr 0xFFFF ≤ 0x1FFF
    ∧ (setup []).ht.length = (setup []).cfg.maxHandlers ∧ ((setup []).setHandler 31 .ioBank .openBus).1 = true
    ∧ ((setup []).setHandler 32 .ioBank .openBus).1 = false ∧ ((setup []).setHandler 0 .ioBank .openBus).1 = false := by
  decide
/-- The memory after the two pushes of `interrupted`, as the statement writes it. -/
def pushed : Memory :=
  (((interrupted.mem.setWord 0 4052 (firstHalf interrupted.cfg.word32Order interrupted.pc)).setWord 0 4054
    (secondHalf interrupted.cfg.word32Order interrupted.pc)).setWord 0 4048
    (firstHalf interrupted.cfg.word32Order interrupted.st)).setWord 0 4050
    (secondHalf interrupted.cfg.word32Order interrupted.st)
theorem witness_EntryOnMemory :
    interrupted.storePlace (interrupted.sp - 32#32) = some (0, 4052)
    ∧ interrupted.storePlace (alignDown (interrupted.sp - 32#32) + 16#32) = some (0, 4054)
    ∧ interrupted.storePlace (interrupted.sp - 64#32) = some (0, 4048)
    ∧ interrupted.storePlace (alignDown (interrupted.sp - 64#32) + 16#32) = some (0, 4050)
    ∧ interrupted.peek32 0xFFFFFEE0 = some 0x00000200#32
    ∧ State.peek32 { interrupted with mem := pushed } 0xFFFFFEE0 = some 0x00000200#32 := by decide

/-- What the entry of `interrupted` leaves. -/
def entered : State := { (withSp [(4049, 0x10), (4051, 0x20), (4052, 0x01), (4053, 0xA0)] 0x7E80) with
  pc := 0x200, icounter := 84, events := [.interruptTaken .nmi 0xFFFFFEE0 0x200] }
theorem witness_EntryReturnRoundTrip :
    interrupted.cfg.wf ∧ interrupted.mem.wf interrupted.cfg ∧ interrupted.ramLong (interrupted.sp - 32#32)
    ∧ interrupted.ramLong (interrupted.sp - 64#32) ∧ interrupted.peek16 0xFFFFFEE0 ≠ none
    ∧ interrupted.peek16 (alignDown 0xFFFFFEE0 + 16#32) ≠ none
    ∧ interrupted.take .nmi 0xFFFFFEE0 = .next entered
    ∧ (entered.setPc 0).sp = entered.sp ∧ (entered.setPc 0).peek32 entered.sp = entered.peek32 entered.sp
    ∧ (entered.setPc 0).peek32 (entered.sp + 32#32) = entered.peek32 (entered.sp + 32#32) :=
  ⟨by decide, by decide, ⟨⟨0, 0, by decide, by decide⟩, ⟨0, 0, by decide, by decide⟩⟩,
    ⟨⟨0, 0, by decide, by decide⟩, ⟨0, 0, by decide, by decide⟩⟩, by decide, by decide, rfl, by decide, by decide,
    by decide⟩
theorem witness_EntryResetsStatus : interrupted.take .nmi 0xFFFFFEE0 = .next entered ∧ interrupted.cfg.wf :=
  ⟨rfl, by decide⟩
theorem witness_EntryCompletes : (setup []).intoutCb = none := rfl
theorem witness_NmiTakenFirst :
    (atNmi.ioAt atNmi.cfg.ioIndex.hstctlh).getLsbD atNmi.cfg.hstNmiBit.val = true := by decide

/-- DI, INT1 and INT2 are pending, INT1 held; DI is not enabled. -/
def pendingInts : State :=
  (((({ withSp [] 0x7EC0 with line0 := .hold } : State).setIo 18 0x0406).setIo 17 0x0206).setSt 0x00200010)
theorem witness_HighestSourceTaken :
    pendingInts.cfg.wf ∧ pendingInts.nmiPending = false ∧ pendingInts.ie = true
    ∧ (IntSource.int1, 0xFFFFFFC0#32) ∈ [(.hi, pendingInts.cfg.vecHi), (.di, pendingInts.cfg.vecDi),
      (.wv, pendingInts.cfg.vecWv), (.int1, pendingInts.cfg.vecInt1), (.int2, pendingInts.cfg.vecInt2)]
    ∧ pendingInts.wants .int1 = true
    ∧ ∀ h, h ∈ maskableSources.takeWhile (fun x => decide (x ≠ IntSource.int1)) → pendingInts.wants h = false := by
  decide
theorem witness_HighestSourceTaken_int2 :
    (pendingInts.setIo 17 0x0004).wants .int2 = true
    ∧ ∀ h, h ∈ maskableSources.takeWhile (fun x => decide (x ≠ IntSource.int2))
      → (pendingInts.setIo 17 0x0004).wants h = false := by decide
theorem witness_NothingTakenWhileMasked :
    (pendingInts.setSt 0x10).nmiPending = false ∧ (pendingInts.setSt 0x10).ie = false
    ∧ (pendingInts.setIo 17 0x0A00).ie = true
    ∧ ∀ source ∈ maskableSources, (pendingInts.setIo 17 0x0A00).wants source = false := by decide
theorem witness_ReturnByPage :
    stacked.peek32 stacked.sp = some 0x00200010#32 ∧ stacked.peek32 (stacked.sp + 32#32) = some 0x01A0#32
    ∧ (withSp [] 0x8000).openRead (withSp [] 0x8000).sp
    ∧ (withSp [] 0x8000).openRead (alignDown (withSp [] 0x8000).sp + 16#32)
    ∧ (withSp [] 0x8000).openRead ((withSp [] 0x8000).sp + 32#32)
    ∧ (withSp [] 0x8000).openRead (alignDown ((withSp [] 0x8000).sp + 32#32) + 16#32) := by decide
theorem witness_RegisterWrite :
    let i := bankIndex cfg 0xC00001B0
    i = cfg.ioIndex.hcount ∧ i ≠ cfg.ioIndex.psize ∧ i ≠ cfg.ioIndex.control ∧ i ≠ cfg.ioIndex.hstctlh
    ∧ i ≠ cfg.ioIndex.hstctll ∧ i ≠ cfg.ioIndex.intpend := by decide
theorem witness_RegisterWrites :
    cfg.wf ∧ bankIndex cfg 0xC0000100 = cfg.ioIndex.hstctlh ∧ bankIndex cfg 0xC00000F0 = cfg.ioIndex.hstctll
    ∧ bankIndex cfg 0xC0000120 = cfg.ioIndex.intpend ∧ bankIndex cfg 0xC00000B0 = cfg.ioIndex.control
    ∧ bankIndex cfg 0xC000015F = cfg.ioIndex.psize ∧ (0x8000#16).getLsbD cfg.hstHltBit.val = true
    ∧ (setup []).cfg = cfg ∧ (setup []).inRun = true := by
  refine ⟨by decide, by decide, by decide, by decide, by decide, by decide, by decide, rfl, rfl⟩
-- HSTCTLL: none rises, INTIN, INTOUT, both; without and with a callback.
theorem witness_HstctllWrite :
    let old := (setup []).ioAt (setup []).cfg.ioIndex.hstctll
    [0x0077#16, 0x0008, 0x0080, 0x0088].map (fun v =>
      (!old.getLsbD cfg.hstIntoutBit.val && v.getLsbD cfg.hstIntoutBit.val,
        !old.getLsbD cfg.hstIntinBit.val && v.getLsbD cfg.hstIntinBit.val))
      = [(false, false), (false, true), (true, false), (true, true)]
    ∧ (setup []).intoutCb = none ∧ ({ setup [] with intoutCb := some 0 } : State).intoutCb = some 0 := by decide
theorem witness_CacheWrites :
    (0x0020#16 = 1#16 <<< (5 : Fin 6).val) ∧ (∀ k : Fin 6, 0x0040#16 ≠ 1#16 <<< k.val) := by decide
theorem witness_ComputedReads :
    let s : State := { (setup []).setIo 3 0xFFFF with totalCycles := 1099, icounter := 93 }
    s.cfg.wf ∧ s.inRun = true ∧ 0 ≤ (s.totalCycles : Int) + (s.cyclesStart - s.icounter) ∧ s.reported = 1106
    ∧ s.cfg.hcountFn = .standard
    ∧ bankIndex s.cfg 0xC00001B0 = s.cfg.ioIndex.hcount ∧ bankIndex s.cfg 0xC00001E0 = s.cfg.ioIndex.refcnt
    ∧ bankIndex s.cfg 0xC00003F0 ≠ s.cfg.ioIndex.hcount ∧ bankIndex s.cfg 0xC00003F0 ≠ s.cfg.ioIndex.refcnt := by decide
theorem witness_ComputedReads_outside :
    let s : State := { setup [] with inRun := false, totalCycles := 1099, icounter := 93, inbox := [.totalCycles] }
    s.inRun = false ∧ s.reported = 1099 ∧ s.inbox = .totalCycles :: [] := by decide
theorem witness_TimerArmAndCheck :
    let s := (setup []).timerArm 100
    (setup []).timerActive = false ∧ s.timerActive = true ∧ 0 < s.timerCyc - 99 ∧ s.timerCyc - 100 ≤ 0
    ∧ s.timerCb = none ∧ ({ s with timerCb := some 7 } : State).timerCb = some 7 := by decide
theorem witness_TimerAutoCheck :
    (setup []).cfg.timerPolicy = .sinceLastCheck
    ∧ ({ setup [] with cfg := { cfg with timerPolicy := .budget } } : State).cfg.timerPolicy = .budget := ⟨rfl, rfl⟩
/-- `lines` between runs with 7 cycles to account for, its timer armed. -/
def armedLines (delay : Int) : State :=
  { lines with inRun := false, totalCycles := 7, timerActive := true, timerCyc := delay }
theorem witness_ScanlineStep :
    lines.cfg.wf ∧ ((-1 : Int) < 0) ∧ ((0 : Int) ≤ 0) ∧ lines.timerActive = false ∧ lines.cfg.advanceWin = .standard
    ∧ (armedLines 8).timerAutoCheck refuseRun .scanline 0 = .next { armedLines 1 with timerStamp := 7 }
    ∧ (armedLines 7).timerAutoCheck refuseRun .scanline 0 = .fault (.unwiredPeripheral
        { lines with inRun := false, totalCycles := 7, timerStamp := 7, events := [.timerFired] }) :=
  ⟨by decide, by decide, by decide, rfl, rfl, rfl, rfl⟩
-- The window of lines 16 to 99: its edges inside and outside.
theorem witness_RenderCall :
    let s := ((armedLines 8).setIo 5 16).setIo 6 100
    let t := (({ armedLines 1 with timerStamp := 7 } : State).setIo 5 16).setIo 6 100
    s.timerAutoCheck refuseRun .scanline 0 = .next t ∧ t.cfg.wf ∧ t.cfg.renderWin = .standard
    ∧ ∀ line ∈ [(15, false), (16, true), (99, true), (100, false)],
      decide ((t.ioAt t.cfg.ioIndex.veblnk).toNat ≤ line.1 ∧ line.1 < (t.ioAt t.cfg.ioIndex.vsblnk).toNat) = line.2 :=
  ⟨rfl, by decide, rfl, by decide⟩

/-- The setup between runs, with one host call to make. -/
def idle (op : HostOp) : State := { setup [] with inRun := false, inbox := [op] }
theorem witness_RunEntry :
    (idle (.run 0)).inRun = false ∧ (idle (.run 0)).inbox = .run 0 :: []
    ∧ ((idle (.run 0)).ioAt (idle (.run 0)).cfg.ioIndex.hstctlh).getLsbD cfg.hstHltBit.val = false
    ∧ (((idle (.run 0)).setIo 16 0x8000).ioAt cfg.ioIndex.hstctlh).getLsbD cfg.hstHltBit.val = true := by decide
theorem witness_RunExit :
    (setup []).inRun = true ∧ ({ setup [] with icounter := 0 } : State).icounter ≤ 0
    ∧ (setup []).stop.stopFlag = true
    ∧ 0 ≤ ((setup []).totalCycles : Int) + ((setup []).cyclesStart - (setup []).icounter) := by decide
/-- `atMovi` between runs, with no host call to make. -/
def idleMovi : State := { atMovi with inRun := false }
/-- Where the loop of `run(3)` of `idleMovi` ends. -/
def ranMovi : State := { atMovi.setA 1 0x00051234 with
  pc := 0x130, icounter := 0, cyclesStart := 3, events := [.misalignedFetch 0x10F] }
theorem witness_CallbackRun :
    (idle (.checkTimer 5)).inRun = false ∧ (idle (.writeRegister 0xC0000000 1)).inbox = .writeRegister 0xC0000000 1 :: []
    ∧ (idle (.generateScanline 0 none)).inbox = .generateScanline 0 none :: []
    ∧ atMovi.inRun = true ∧ (idleMovi.setIo 16 0x8000).halted = true ∧ idleMovi.inRun = false ∧ idleMovi.halted = false
    ∧ idleMovi.inbox = [] ∧ idleMovi.hostCall (.run 3) = .next (idleMovi.startRun 3)
    ∧ 1 ≤ Config.extraIterations + (3 : Int).toNat ∧ stepN 1 (idleMovi.startRun 3) = .next ranMovi
    ∧ ranMovi.inRun = true ∧ ranMovi.loopCondition = false :=
  ⟨rfl, rfl, rfl, rfl, by decide, rfl, by decide, rfl, rfl, by simp, rfl, rfl, by decide⟩
-- R208, R160: a callback between runs runs the core and goes on with the count; inside a run it is refused.
theorem test_callback_runs :
    after (runCollab State.nestedRun (.run 2 fun n => .timerArm n .done) idleMovi)
      (fun t => t.a 1 == 0x00051234 && t.totalCycles == 3 && t.timerCyc == 3 && !t.inRun) = true := by decide
theorem test_callback_run_refused :
    runCollab State.nestedRun (.run 2 fun _ => .done) atMovi = .refused (.reentrantRun atMovi) := rfl
theorem witness_SetIrqLine :
    (idle (.setIrqLine 0 .hold)).inbox = .setIrqLine 0 .hold :: []
    ∧ (idle (.setIrqLine 1 .clear)).inbox = .setIrqLine 1 .clear :: []
    ∧ (idle (.setIrqLine (-1) .assert)).inbox = .setIrqLine (-1) .assert :: [] ∧ (-1 : Int) ≠ 0 ∧ (-1 : Int) ≠ 1 := by
  decide
theorem witness_ResetResult :
    (setup []).inRun = true ∧ (idle .reset).inRun = false
    ∧ (idle .reset).peek32 (idle .reset).cfg.vecReset = some 0x00000100#32
    ∧ (State.init cfg []).inRun = false ∧ (State.init cfg []).openRead cfg.vecReset
    ∧ (State.init cfg []).openRead (alignDown cfg.vecReset + 16#32) := by decide

theorem setup_inv : (setup []).Inv := ⟨by decide, by decide, by decide, by decide, by decide, by decide, rfl⟩
theorem witness_SaveLoadRoundTrip :
    (idle .serialize).Inv ∧ (idle .serialize).inRun = false ∧ ((idle .serialize).setPc 5).inRun = false
    ∧ ((idle .serialize).setPc 5).cfg = (idle .serialize).cfg
    ∧ pixelshiftOf ((idle .serialize).ioAt cfg.ioIndex.psize) ≠ none :=
  ⟨⟨by decide, by decide, by decide, by decide, by decide, by decide, rfl⟩, rfl, rfl, rfl, by decide⟩
theorem witness_SaveLoadRoundTrip_source :
    (idle .stop).saveItems.map kindOf = savedKinds (idle .stop).cfg
    ∧ ((idle .stop).saveItems ++ [SaveItem.bool true]).map kindOf ≠ savedKinds (idle .stop).cfg
    ∧ (idle .stop).inRun = false ∧ (setup []).inRun = true := by decide
theorem witness_StepKeepsInv :
    (setup []).Inv ∧ step (setup []) = .next { setup [] with pc := 0x110, icounter := 99 } := ⟨setup_inv, rfl⟩
theorem witness_StepKeepsParameters :
    step (idle .stop) = .next { idle .stop with stopFlag := true, inbox := [], results := [.unit] } := rfl
theorem witness_RunKeepsIntpendSources :
    pendingInts.cfg.wf ∧ pendingInts.inRun = true ∧ pendingInts.intpendSourcesOnly
    ∧ after (step pendingInts) (fun t => t.ioAt t.cfg.ioIndex.intpend == 0x0404) = true := by decide
theorem witness_IterationKeepsAccounts :
    (setup []).inRun = true ∧ 0 < (setup []).icounter ∧ (setup []).stopFlag = false
    ∧ step (setup []) = .next { setup [] with pc := 0x110, icounter := 99 } := ⟨rfl, by decide, rfl, rfl⟩

end Sys2Proof.Tests
end

section
/-! What a step is in each of its three situations, and the relations that every step keeps. -/

namespace Sys2Proof.Machine

/-- R164: inside a run whose loop condition holds, a step is an iteration. -/
theorem step_of_loopCondition {s : State} (hrun : s.inRun = true) (hloop : s.loopCondition = true) :
    step s = iteration s := by
  simp [step, hrun, hloop]

/-- R170: inside a run whose loop condition fails, a step is the exit. -/
theorem step_of_loopEnd {s : State} (hrun : s.inRun = true) (hloop : s.loopCondition = false) :
    step s = .next s.runExit := by
  simp [step, hrun, hloop]

/-- R160: between runs, a step is the next host call. -/
theorem step_of_idle {s : State} (hrun : s.inRun = false) : step s = s.hostStep := by
  simp [step, hrun]

/-- A closed relation is kept by every step, if the updates that only a run's borders and the host's queue make keep it
too: the start and the end of a run, the answer of a call and its removal from the queue. -/
theorem Closed.step {R : State → State → Prop} (hR : Closed R) (startRun : ∀ s budget, R s (s.startRun budget))
    (endRun : ∀ s, R s s.endRun) (answer : ∀ s r, R s (s.answer r))
    (dequeue : ∀ (s : State) rest, R s { s with inbox := rest }) (s : State) : Leads R s (step s) := by
  cases hrun : s.inRun with
  | true =>
    cases hloop : s.loopCondition with
    | true =>
      rw [step_of_loopCondition hrun hloop]
      exact hR.iteration s
    | false =>
      rw [step_of_loopEnd hrun hloop]
      exact .next (hR.trans _ _ _ (endRun s) (answer s.endRun _))
  | false =>
    rw [step_of_idle hrun]
    unfold State.hostStep
    split
    · exact .next (hR.refl s)
    · exact Leads.trans hR (dequeue s _) (hR.hostCall answer startRun _ _)

/-- Settles O57: `closed_inv` over the steps; the borders of a run and the queue touch nothing the invariant reads. -/
theorem stepKeepsInv : Obligations.StepKeepsInv := fun s t hs ht =>
  closed_inv.step
    (startRun := fun _ _ => State.inv_same rfl rfl rfl rfl rfl rfl rfl)
    (endRun := fun _ => State.inv_same rfl rfl rfl rfl rfl rfl rfl)
    (answer := fun _ _ => State.inv_same rfl rfl rfl rfl rfl rfl rfl)
    (dequeue := fun _ _ => State.inv_same rfl rfl rfl rfl rfl rfl rfl) s t ht hs

/-- Settles O58: `closed_cfg` over the steps. -/
theorem stepKeepsParameters : Obligations.StepKeepsParameters :=
  closed_cfg.step (startRun := fun _ _ => rfl) (endRun := fun _ => rfl) (answer := fun _ _ => rfl)
    (dequeue := fun _ _ => rfl)

/-- Settles O60: the step is an iteration, along which `closed_accounts` leads. -/
theorem iterationKeepsAccounts : Obligations.IterationKeepsAccounts := by
  intro s t hrun hbudget hstop ht
  have hloop : s.loopCondition = true := by simp [State.loopCondition, hbudget, hstop]
  rw [step_of_loopCondition hrun hloop] at ht
  exact closed_accounts.iteration s t ht hrun

end Sys2Proof.Machine
end

section
/-! The bits of INTPEND that belong to no source, inside a run (spec/10_state.md R40). -/

namespace Sys2Proof.Machine

/-- Inside a run under consistent parameters, with the bits of INTPEND outside the five sources at 0. -/
def State.runSourcesOnly (s : State) : Prop := s.cfg.wf ∧ s.inRun = true ∧ s.intpendSourcesOnly

/-- The bits that a source requests with are in `SRC_MASK` (R54). -/
theorem srcMask_getLsbD_of_mem {p : Params} {bit : Fin 16}
    (h : bit ∈ [p.bitHi, p.bitDi, p.bitWv, p.bitInt1, p.bitInt2]) : (srcMask p).getLsbD bit.val = true := by
  rw [srcMask_getLsbD p _ bit.isLt]
  simp only [List.mem_cons, List.not_mem_nil, or_false] at h
  simpa [Fin.ext_iff] using h

/-- R315: a write of INTPEND sets no bit. -/
theorem intpendAfterWrite_sourcesOnly {p : Params} {old : Word16} (v : Word16) (h : old &&& ~~~(srcMask p) = 0#16) :
    intpendAfterWrite p old v &&& ~~~(srcMask p) = 0#16 := by
  unfold intpendAfterWrite
  rw [BitVec.and_assoc, BitVec.and_comm (_ ||| v), ← BitVec.and_assoc, h, BitVec.zero_and]

namespace State

theorem ioAt_recomputePixelshift (s : State) (i : Fin 64) : s.recomputePixelshift.ioAt i = s.ioAt i := by
  unfold State.ioAt
  simp only [State.recomputePixelshift_io]

/-- The predicate reads the parameters, the run flag and INTPEND alone. -/
theorem runSourcesOnly_congr {s t : State} (hc : t.cfg = s.cfg) (hr : t.inRun = s.inRun)
    (hi : t.ioAt s.cfg.ioIndex.intpend = s.ioAt s.cfg.ioIndex.intpend) (h : s.runSourcesOnly) : t.runSourcesOnly := by
  unfold State.runSourcesOnly State.intpendSourcesOnly
  rw [hc, hr, hi]
  exact h

theorem runSourcesOnly_setIntpend {s : State} {v : Word16} (hv : v &&& ~~~(srcMask s.cfg) = 0#16)
    (h : s.runSourcesOnly) : (s.setIo s.cfg.ioIndex.intpend v).runSourcesOnly := by
  obtain ⟨hwf, hrun, -⟩ := h
  refine ⟨hwf, hrun, ?_⟩
  unfold State.intpendSourcesOnly
  rw [State.setIo_cfg, State.ioAt_setIo, if_pos rfl]
  exact hv

theorem runSourcesOnly_setPending {s : State} {bit : Fin 16} (b : Bool)
    (hbit : bit ∈ [s.cfg.bitHi, s.cfg.bitDi, s.cfg.bitWv, s.cfg.bitInt1, s.cfg.bitInt2]) (h : s.runSourcesOnly) :
    (s.setPending bit b).runSourcesOnly :=
  runSourcesOnly_setIntpend (setBit16_srcMask b (srcMask_getLsbD_of_mem hbit) h.2.2) h

theorem runSourcesOnly_setIo {s : State} {i : Fin 64} (v : Word16) (hi : i ≠ s.cfg.ioIndex.intpend)
    (h : s.runSourcesOnly) : (s.setIo i v).runSourcesOnly :=
  runSourcesOnly_congr (s := s) rfl rfl (by rw [State.ioAt_setIo, if_neg hi.symm]) h

/-- A named register but INTPEND, by its place in Table IO's order. -/
theorem runSourcesOnly_storeNamed {s : State} (k : Fin 27) (v : Word16) (hk : k ≠ 18) (h : s.runSourcesOnly) :
    (s.setIo (s.cfg.ioIndex.all.get k) v).runSourcesOnly :=
  runSourcesOnly_setIo v (Params.index_ne h.1 k 18 hk) h

end State

open State in
/-- No primitive update inside a run sets a bit of INTPEND that belongs to no source; a reset and a load are refused
there. -/
theorem closed_runSourcesOnly : Closed (fun s t : State => s.runSourcesOnly → t.runSourcesOnly) where
  refl _ h := h
  trans _ _ _ h k hs := k (h hs)
  setX _ _ _ := runSourcesOnly_congr rfl rfl rfl
  setPc _ _ := runSourcesOnly_congr rfl rfl rfl
  setSt _ _ := runSourcesOnly_congr rfl rfl rfl
  setIcounter _ _ := runSourcesOnly_congr rfl rfl rfl
  emit _ _ := runSourcesOnly_congr rfl rfl rfl
  tick _ := runSourcesOnly_congr rfl rfl rfl
  stop _ := runSourcesOnly_congr rfl rfl rfl
  mapMemory _ _ _ _ _ := runSourcesOnly_congr rfl rfl rfl
  mapHandler _ _ _ _ _ := runSourcesOnly_congr rfl rfl rfl
  setWord _ _ _ _ := runSourcesOnly_congr rfl rfl rfl
  setBuffer _ _ _ _ := runSourcesOnly_congr rfl rfl rfl
  setHandler s id rd wr h := by
    unfold State.setHandler
    split
    · exact h
    · exact runSourcesOnly_congr (s := s) rfl rfl rfl h
  setIrqLine s line level h := by
    unfold State.setIrqLine
    split
    · exact runSourcesOnly_congr rfl rfl rfl (runSourcesOnly_setPending _ (by simp) h)
    · split
      · exact runSourcesOnly_congr rfl rfl rfl (runSourcesOnly_setPending _ (by simp) h)
      · exact h
  setPending s bit hbit := runSourcesOnly_setPending true (by rcases hbit with rfl | rfl | rfl <;> simp)
  holdClear0 s source h := by
    unfold State.holdClear0
    split
    · exact runSourcesOnly_congr rfl rfl rfl (runSourcesOnly_setPending _ (by simp) h)
    · exact h
  holdClear1 s source h := by
    unfold State.holdClear1
    split
    · exact runSourcesOnly_congr rfl rfl rfl (runSourcesOnly_setPending _ (by simp) h)
    · exact h
  storePsize s v h :=
    runSourcesOnly_congr (s := s.setIo s.cfg.ioIndex.psize v) (by simp) (by simp) (ioAt_recomputePixelshift _ _)
      (runSourcesOnly_storeNamed 21 v (by decide) h)
  storeControl s v h :=
    runSourcesOnly_congr (s := s.setIo s.cfg.ioIndex.control v) rfl rfl rfl
      (runSourcesOnly_storeNamed 11 v (by decide) h)
  storeHstctlh _ v := runSourcesOnly_storeNamed 16 v (by decide)
  storeHstctll _ v := runSourcesOnly_storeNamed 15 v (by decide)
  storeVcount _ v := runSourcesOnly_storeNamed 24 v (by decide)
  storeDpyadr _ v := runSourcesOnly_storeNamed 25 v (by decide)
  storeIntpend s v h :=
    runSourcesOnly_congr (s := s.setIo s.cfg.ioIndex.intpend (intpendAfterWrite s.cfg (s.ioAt s.cfg.ioIndex.intpend) v))
      rfl rfl (by simp only [State.setIo_cfg, State.ioAt_setIo, if_true])
      (runSourcesOnly_setIntpend (intpendAfterWrite_sourcesOnly v h.2.2) h)
  storeRaw _ _ v _ _ hi := runSourcesOnly_setIo v hi
  setTimer _ _ _ := runSourcesOnly_congr rfl rfl rfl
  setStamp _ _ := runSourcesOnly_congr rfl rfl rfl
  setTimerCb _ _ := runSourcesOnly_congr rfl rfl rfl
  setIntoutCb _ _ := runSourcesOnly_congr rfl rfl rfl
  setShiftreg _ _ _ := runSourcesOnly_congr rfl rfl rfl
  zeroed _ hidle h := absurd h.2.1 (by simp [hidle])
  restore _ _ _ hidle _ h := absurd h.2.1 (by simp [hidle])
  nestedRun _ _ _ hidle _ h := absurd h.2.1 (by simp [hidle])

/-- Settles O59: an iteration keeps the bits (`closed_runSourcesOnly`), and the exit of a run does not touch the bank. -/
theorem runKeepsIntpendSources : Obligations.RunKeepsIntpendSources := by
  intro s t hwf hrun hbits ht
  cases hloop : s.loopCondition with
  | true =>
    rw [step_of_loopCondition hrun hloop] at ht
    obtain ⟨-, -, hkept⟩ := closed_runSourcesOnly.iteration s t ht ⟨hwf, hrun, hbits⟩
    exact hkept
  | false =>
    rw [step_of_loopEnd hrun hloop] at ht
    cases ht
    exact hbits

end Sys2Proof.Machine
end

section
/-! The reported total and the register reads computed from it (spec/10_state.md R49, 60_exceptions.md R316 to R318). -/

namespace Sys2Proof.Machine

theorem State.reported_of_idle {s : State} (h : s.inRun = false) : s.reported = s.totalCycles := by
  simp [State.reported, h]

/-- A sum that is a natural number is the total it is held as (00_scope.md R11). -/
theorem asTotal_of_nonneg {n : Int} (h : 0 ≤ n) : (asTotal n : Int) = n := by
  rw [asTotal, if_pos h, Int.toNat_of_nonneg h]

theorem State.reported_of_inRun {s : State} (h : s.inRun = true)
    (hsum : 0 ≤ (s.totalCycles : Int) + (s.cyclesStart - s.icounter)) :
    (s.reported : Int) = s.totalCycles + (s.cyclesStart - s.icounter) := by
  rw [State.reported, if_pos h, asTotal_of_nonneg hsum]

theorem refcnt_toNat (t : Nat) : (refcnt t).toNat = t / 16 % 2 ^ 16 := BitVec.toNat_ofNat _ _

/-- R318: the default formula, as a number. -/
theorem hcount_toNat {p : Params} (h : p.hcountFn = .standard) (t : Nat) (io : Vector Word16 64) :
    (hcount p t io).toNat =
      (t % p.cpl) * ((io[p.ioIndex.htotal.val]'p.ioIndex.htotal.isLt).toNat + 1) / p.cpl % 2 ^ 16 := by
  unfold hcount
  rw [h]
  exact BitVec.toNat_ofNat _ _

/-- R318: a beam position inside a line of `n + 1` counts is at most `n`. -/
theorem beamPosition_le {cpl : Nat} (hpos : 0 < cpl) (t n : Nat) : (t % cpl) * (n + 1) / cpl ≤ n := by
  have hlt : (t % cpl) * (n + 1) < cpl * (n + 1) :=
    Nat.mul_lt_mul_of_pos_right (Nat.mod_lt t hpos) n.succ_pos
  exact Nat.le_of_lt_succ (Nat.div_lt_of_lt_mul hlt)

/-- R316: a register but HCOUNT and REFCNT reads as stored. -/
theorem State.readRegister_stored {s : State} {a : Addr} (hh : bankIndex s.cfg a ≠ s.cfg.ioIndex.hcount)
    (hr : bankIndex s.cfg a ≠ s.cfg.ioIndex.refcnt) : s.readRegister a = s.ioAt (bankIndex s.cfg a) := by
  simp [State.readRegister, hh, hr]

/-- R317: REFCNT reads as computed from the reported total, and is another register than HCOUNT. -/
theorem State.readRegister_refcnt {s : State} {a : Addr} (hwf : s.cfg.wf)
    (h : bankIndex s.cfg a = s.cfg.ioIndex.refcnt) : s.readRegister a = refcnt s.reported := by
  have hne : s.cfg.ioIndex.refcnt ≠ s.cfg.ioIndex.hcount := Params.index_ne hwf 26 23 (by decide)
  simp [State.readRegister, h, hne]

/-- R318: HCOUNT reads as computed from the reported total and the bank. -/
theorem State.readRegister_hcount {s : State} {a : Addr} (h : bankIndex s.cfg a = s.cfg.ioIndex.hcount) :
    s.readRegister a = hcount s.cfg s.reported s.io := by
  simp [State.readRegister, h]

/-- A call of `total_cycles` between runs answers the reported total. -/
theorem step_totalCycles {s : State} {rest : List HostOp} (hidle : s.inRun = false)
    (hq : s.inbox = .totalCycles :: rest) :
    step s = .next { s with inbox := rest, results := s.results ++ [.total s.reported] } := by
  rw [step_of_idle hidle, State.hostStep, hq]
  rfl

/-- Settles O45: the reported total by the run flag, then each computed read by its register. -/
theorem computedReads : Obligations.ComputedReads := by
  intro s
  refine ⟨State.reported_of_idle, State.reported_of_inRun, fun rest => step_totalCycles, fun _ _ => rfl,
    fun a hwf => ⟨State.readRegister_stored, fun hi => ?_, fun hi hfn => ?_⟩⟩
  · rw [State.readRegister_refcnt hwf hi, refcnt_toNat]
  · obtain ⟨-, -, -, -, -, -, -, hcpl, -, -⟩ := hwf
    have hval := hcount_toNat hfn s.reported s.io
    rw [State.readRegister_hcount hi]
    refine ⟨hval, ?_⟩
    rw [hval]
    exact (Nat.mod_le _ _).trans (beamPosition_le hcpl _ _)

end Sys2Proof.Machine
end

section
/-! The two views of the register file (spec/10_state.md R30, R31). -/

namespace Sys2Proof.Machine

theorem slotA_inj {m n : RegNo} : slotA m = slotA n ↔ m = n := by
  simp [slotA, Fin.ext_iff, BitVec.toNat_eq]

theorem slotB_inj {m n : RegNo} : slotB m = slotB n ↔ m = n := by
  have := m.isLt
  have := n.isLt
  simp only [slotB, Fin.mk.injEq, BitVec.toNat_eq]
  omega

/-- The views share the slot of SP alone: `x[n]` is `x[30 - m]` for n = m = 15. -/
theorem slotA_eq_slotB {n m : RegNo} : slotA n = slotB m ↔ n = 15 ∧ m = 15 := by
  have := n.isLt
  have := m.isLt
  have h15 : (15 : RegNo).toNat = 15 := rfl
  simp only [slotA, slotB, Fin.mk.injEq, BitVec.toNat_eq, h15]
  omega

/-- Settles O32: a write changes one slot, and the slots of the two views meet at SP. -/
theorem registerViews : Obligations.RegisterViews := by
  intro s n m v
  refine ⟨?_, ?_, ?_, ?_, rfl, rfl⟩
  · simp only [State.a, State.setA, State.xAt_setX, slotA_inj]
  · simp only [State.b, State.setB, State.xAt_setX, slotB_inj]
  · simp only [State.b, State.setA, State.xAt_setX, eq_comm (a := slotB m), slotA_eq_slotB]
  · simp only [State.a, State.setB, State.xAt_setX, slotA_eq_slotB, and_comm]

end Sys2Proof.Machine
end

section
/-! The state after reset (spec/10_state.md R59, 70_reset_and_hazards.md R360 to R363). -/

namespace Sys2Proof.Machine

theorem State.reset_ioAt (i : Fin 64) : State.reset.ioAt i = 0#16 := by
  simp [State.ioAt, State.reset]

/-- The defaults of Table P are consistent, whatever the OPEN value of `CPL` is. -/
theorem Params.default_wf : Params.default.wf :=
  ⟨by decide, by decide, by decide, by decide, by decide, by decide, by decide, Nat.succ_pos _, fun _ => rfl, by decide⟩

/-- A PSIZE of 0 is illegal, so it leaves `pixelshift` open (R46). -/
theorem State.reset_cachesCurrent : State.reset.cachesCurrent := by
  unfold State.cachesCurrent
  have hillegal : pixelshiftOf 0#16 = none := rfl
  simp only [State.reset_ioAt, hillegal]
  exact ⟨nofun, rfl⟩

theorem State.reset_inv : State.reset.Inv :=
  ⟨Params.default_wf, State.reset_mem_wf, rfl, rfl, List.length_replicate, State.reset_cachesCurrent⟩

/-- Settles O56: `reset_inv`, and each register as R59 gives it. -/
theorem resetState : Obligations.ResetState := by
  refine ⟨State.reset_inv, ?_, rfl, rfl, rfl, rfl, ?_, ?_, State.reset_ioAt⟩
  · unfold State.intpendSourcesOnly
    rw [State.reset_ioAt, BitVec.zero_and]
  · rw [State.halted, State.reset_ioAt, BitVec.getLsbD_zero]
  · rw [State.nmiPending, State.reset_ioAt, BitVec.getLsbD_zero]

end Sys2Proof.Machine
end

section
/-! What the load and store instructions and the 32-bit accesses are, in terms of the 16-bit ones (spec/20_memory.md R97,
R100, 45_test_handlers.md R234 to R237). -/

namespace Sys2Proof.Machine

theorem lowHalf_eq_extract (v : Word32) : lowHalf v = v.extractLsb' 0 16 := by
  exact BitVec.setWidth_eq_extractLsb' (by decide)

/-- R237: zero extension puts zeros above the word. -/
theorem zext32_eq_append (v : Word16) : zext32 v = 0#16 ++ v := by
  apply BitVec.eq_of_getLsbD_eq
  intro i hi
  rw [zext32, BitVec.getLsbD_setWidth, BitVec.getLsbD_append]
  by_cases h : i < 16
  · simp [h, hi]
  · simp [h, BitVec.getLsbD_of_ge v i (by omega)]

/-- R236. -/
theorem exec_stw (n : RegNo) (addr : Addr) (s : State) :
    exec (.stw n addr) s = andThen (s.memWrite16 addr ((s.a n).extractLsb' 0 16)) (fun t => .next (t.charge 3)) := by
  rw [← lowHalf_eq_extract]
  rfl

/-- R234. -/
theorem exec_stl (n : RegNo) (addr : Addr) (s : State) :
    exec (.stl n addr) s = andThen (s.memWrite32 addr (s.a n)) (fun t => .next (t.charge 4)) := rfl

/-- R237. -/
theorem exec_ldw (n : RegNo) (addr : Addr) (s : State) :
    exec (.ldw n addr) s = .next (((s.memRead16 addr).2.setA n (0#16 ++ (s.memRead16 addr).1)).charge 3) := by
  rw [← zext32_eq_append]
  rfl

/-- R235. -/
theorem exec_ldl (n : RegNo) (addr : Addr) (s : State) :
    exec (.ldl n addr) s = .next (((s.memRead32 addr).2.setA n (s.memRead32 addr).1).charge 4) := rfl

/-- R97: the second half is read in the state that the first left. -/
theorem State.memRead32_eq (s : State) (a : Addr) :
    s.memRead32 a = (joinHalves s.cfg.word32Order (s.memRead16 a).1
        ((s.memRead16 a).2.memRead16 (alignDown a + 16#32)).1, ((s.memRead16 a).2.memRead16 (alignDown a + 16#32)).2) := by
  rw [← s.memRead16_alignDown a]
  rfl

/-- R100: the second half is written in the state that the first left. -/
theorem State.memWrite32_eq (s : State) (a : Addr) (v : Word32) :
    s.memWrite32 a v = andThen (s.memWrite16 a (firstHalf s.cfg.word32Order v))
      (fun t => t.memWrite16 (alignDown a + 16#32) (secondHalf s.cfg.word32Order v)) := by
  rw [← s.memWrite16_alignDown a]
  rfl

end Sys2Proof.Machine
end

section
/-! Stores to direct pages (spec/20_memory.md R98, R100, R103). -/

namespace Sys2Proof.Machine

/-- R100: the two halves of a 32-bit write to direct pages, each at its own place. -/
theorem State.memWrite32_storePlace {s : State} {a : Addr} {p q : Nat × Nat} (v : Word32)
    (hp : s.storePlace a = some p) (hq : s.storePlace (alignDown a + 16#32) = some q) :
    s.memWrite32 a v = .next (s.setMem ((s.mem.setWord p.1 p.2 (firstHalf s.cfg.word32Order v)).setWord q.1 q.2
      (secondHalf s.cfg.word32Order v))) := by
  have hkept : (s.setMem (s.mem.setWord p.1 p.2 (firstHalf s.cfg.word32Order v))).storePlace (alignDown a + 16#32)
      = some q := by
    rw [← hq]
    simp [State.storePlace, State.setMem]
  rw [s.memWrite32_eq, s.memWrite16_storePlace _ _ _ hp, andThen_next, State.memWrite16_storePlace _ _ _ _ hkept]
  rfl

/-- Where the next word lies in its page: the pages divide the address space, so the place wraps with the address. -/
theorem next_word_offset {c : Params} (hc : c.pagesOk) (a : Addr) :
    (alignDown a + 16#32).toNat / 16 * 2 % c.pageBytes = (a.toNat / 16 * 2 + 2) % c.pageBytes := by
  have hnext : (alignDown a + 16#32).toNat = (a.toNat / 16 * 16 + 16) % 2 ^ 32 := by
    rw [BitVec.toNat_add, alignDown_toNat]
    rfl
  have hlt := a.isLt
  rw [hnext]
  by_cases hwrap : a.toNat / 16 + 1 = 2 ^ 28
  · have hleft : (a.toNat / 16 * 16 + 16) % 2 ^ 32 / 16 * 2 = 0 := by omega
    have hright : a.toNat / 16 * 2 + 2 = c.pageBytes * c.pageCount := by rw [hc.2]; omega
    rw [hleft, hright, Nat.mul_mod_right, Nat.zero_mod]
  · congr 1
    omega

/-- The two halves of a 32-bit write share no byte, even where both pages name one block. -/
theorem State.storePlace_halves_apart {s : State} (hc : s.cfg.pagesOk) (hm : s.mem.wf s.cfg) {a : Addr} {p q : Nat × Nat}
    (hp : s.storePlace a = some p) (hq : s.storePlace (alignDown a + 16#32) = some q) :
    p.2 ≠ q.2 ∧ p.2 ≠ q.2 + 1 ∧ p.2 + 1 ≠ q.2 := by
  obtain ⟨hpo, -⟩ := State.storePlace_bounds hc hm hp
  obtain ⟨hqo, -⟩ := State.storePlace_bounds hc hm hq
  rw [next_word_offset hc] at hqo
  generalize a.toNat / 16 * 2 = x at hpo hqo
  refine ⟨fun e => ?_, fun e => ?_, fun e => ?_⟩
  · exact offset_ne hc x 2 (by decide) (by decide) (by rw [← hqo, ← hpo, e])
  · exact offset_ne hc x 3 (by decide) (by decide) ((e ▸ hpo).symm.trans (Nat.ModEq.add_right 1 hqo)).symm
  · exact offset_ne hc (x + 1) 1 (by decide) (by decide) ((e ▸ Nat.ModEq.add_right 1 hpo).symm.trans hqo).symm

/-- R100: after the two halves of a 32-bit write, each place has its half. -/
theorem State.wordAt_setWord_halves {s : State} (hc : s.cfg.pagesOk) (hm : s.mem.wf s.cfg) {a : Addr} {p q : Nat × Nat}
    (hp : s.storePlace a = some p) (hq : s.storePlace (alignDown a + 16#32) = some q) (v w : Word16) :
    ((s.mem.setWord p.1 p.2 v).setWord q.1 q.2 w).wordAt p.1 p.2 = v
    ∧ ((s.mem.setWord p.1 p.2 v).setWord q.1 q.2 w).wordAt q.1 q.2 = w := by
  obtain ⟨-, hplen⟩ := State.storePlace_bounds hc hm hp
  obtain ⟨-, hqlen⟩ := State.storePlace_bounds hc hm hq
  constructor
  · rw [Memory.wordAt_setWord_other _ _ _ _ _ _ (State.storePlace_halves_apart hc hm hp hq),
      s.mem.wordAt_setWord_same _ _ hm.2.2 _ hplen]
  · exact Memory.wordAt_setWord_same _ _ _ (s.mem.setWord_wf _ _ _ _ hm).2.2 _ (by simpa using hqlen)

/-- R103: a word just written has its high byte first. -/
theorem Memory.byteAt_setWord_high (m : Memory) {buf o : Nat} (w : Word16) (hw : ∀ b ∈ m.bufs, b.wf)
    (ho : o + 1 < m.bufLen buf) : (m.setWord buf o w).byteAt buf o = w.extractLsb' 8 8 := by
  calc (m.setWord buf o w).byteAt buf o
      = ((m.setWord buf o w).wordAt buf o).extractLsb' 8 8 := (high_append _ _).symm
    _ = w.extractLsb' 8 8 := by rw [m.wordAt_setWord_same buf o hw w ho]

/-- R103: a word just written has its low byte second. -/
theorem Memory.byteAt_setWord_low (m : Memory) {buf o : Nat} (w : Word16) (hw : ∀ b ∈ m.bufs, b.wf)
    (ho : o + 1 < m.bufLen buf) : (m.setWord buf o w).byteAt buf (o + 1) = w.extractLsb' 0 8 := by
  calc (m.setWord buf o w).byteAt buf (o + 1)
      = ((m.setWord buf o w).wordAt buf o).extractLsb' 0 8 := (low_append _ _).symm
    _ = w.extractLsb' 0 8 := by rw [m.wordAt_setWord_same buf o hw w ho]

/-- A byte outside the two of a word write is as before. -/
theorem Memory.byteAt_setWord_apart (m : Memory) {buf o b k : Nat} (w : Word16) (h : ¬(b = buf ∧ (k = o ∨ k = o + 1))) :
    (m.setWord buf o w).byteAt b k = m.byteAt b k :=
  m.byteAt_setWord_other _ _ _ _ _ (fun e => h (by cases e; exact ⟨rfl, .inl rfl⟩))
    (fun e => h (by cases e; exact ⟨rfl, .inr rfl⟩))

/-- Settles O22: the low half of the register goes to one place, or each half to its own, and the places share no
byte. -/
theorem storesToMemory : Obligations.StoresToMemory := by
  intro s n addr hwf hm
  have hc := wf_pagesOk hwf
  refine ⟨fun p hp => ?_, fun p q hp hq => ?_⟩
  · obtain ⟨-, hlen⟩ := State.storePlace_bounds hc hm hp
    refine ⟨s.mem.setWord p.1 p.2 ((s.a n).extractLsb' 0 16), ?_, by simp, by simp, by simp, ?_, ?_,
      fun b o => s.mem.byteAt_setWord_apart _⟩
    · rw [exec_stw, s.memWrite16_storePlace _ _ _ hp]
      rfl
    · rw [s.mem.byteAt_setWord_high _ hm.2.2 hlen, BitVec.extractLsb'_extractLsb'_of_le (by decide)]
    · rw [s.mem.byteAt_setWord_low _ hm.2.2 hlen, BitVec.extractLsb'_extractLsb'_of_le (by decide)]
  · obtain ⟨hfirst, hsecond⟩ := State.wordAt_setWord_halves hc hm hp hq (firstHalf s.cfg.word32Order (s.a n))
      (secondHalf s.cfg.word32Order (s.a n))
    refine ⟨_, ?_, ?_, ?_, ?_, hfirst, hsecond,
      fun b o h k => (Memory.byteAt_setWord_apart _ _ k).trans (s.mem.byteAt_setWord_apart _ h)⟩
    · rw [exec_stl, State.memWrite32_storePlace _ hp hq]
      rfl
    all_goals simp

end Sys2Proof.Machine
end

section
/-! Stores to the open bus and to any pages (spec/20_memory.md R92, R101, R102). -/

namespace Sys2Proof.Machine

/-- R101: both halves of a 32-bit write to unmapped pages are discarded, their calls recorded in address order. -/
theorem State.memWrite32_openWrite {s : State} {a : Addr} (v : Word32) (h : s.openWrite a)
    (k : s.openWrite (alignDown a + 16#32)) :
    s.memWrite32 a v = .next ((s.emit (.handlerWrite 0 (alignDown a) (firstHalf s.cfg.word32Order v))).emit
      (.handlerWrite 0 (alignDown a + 16#32) (secondHalf s.cfg.word32Order v))) := by
  have hkept : (s.emit (.handlerWrite 0 (alignDown a) (firstHalf s.cfg.word32Order v))).openWrite
      (alignDown a + 16#32) := k
  rw [s.memWrite32_eq, s.memWrite16_openWrite _ _ h, andThen_next, State.memWrite16_openWrite _ _ _ hkept,
    alignDown_next]

/-- Settles O23: the write of each width, then the charge. -/
theorem storesToOpenBus : Obligations.StoresToOpenBus := by
  intro s n addr h
  refine ⟨?_, fun k => ?_⟩
  · rw [exec_stw, s.memWrite16_openWrite _ _ h]
    rfl
  · rw [exec_stl, State.memWrite32_openWrite _ h k, andThen_next]
    simp [State.emit, State.charge]

/-- A charge touches the budget alone. -/
theorem State.charge_onlyStore (s : State) (c : Nat) : s.OnlyStoreEffects (s.charge c) := by constructor <;> rfl

/-- Settles O24: a write completes where no callback is registered, and the charge comes after it. -/
theorem storesComplete : Obligations.StoresComplete := by
  intro s n addr h
  constructor
  · obtain ⟨t, ht, hf⟩ := s.memWrite16_completes addr ((s.a n).extractLsb' 0 16) h
    exact ⟨t.charge 3, by rw [exec_stw, ht, andThen_next], hf.trans (t.charge_onlyStore 3)⟩
  · obtain ⟨t, ht, hf⟩ := s.memWrite32_completes addr (s.a n) h
    exact ⟨t.charge 4, by rw [exec_stl, ht, andThen_next], hf.trans (t.charge_onlyStore 4)⟩

end Sys2Proof.Machine
end

section
/-! Stores to the I/O bank (spec/20_memory.md R105, 60_exceptions.md R310, R313, R319). -/

namespace Sys2Proof.Machine

/-- The bank has 32 or 64 registers, so that the index it gives is no cut one (log 20). -/
theorem bankIndex_val (p : Params) (a : Addr) : (bankIndex p a).val = a.toNat / 16 % p.ioregCount := by
  have hlt : a.toNat / 16 % p.ioregCount < 64 := by
    unfold Params.ioregCount
    cases p.variant <;> simp only <;> omega
  exact Nat.mod_eq_of_lt hlt

/-- The low four address bits pick no register. -/
@[simp] theorem bankIndex_alignDown (p : Params) (a : Addr) : bankIndex p (alignDown a) = bankIndex p a := by
  apply Fin.ext
  rw [bankIndex_val, bankIndex_val, alignDown_toNat, Nat.mul_div_cancel _ (by decide)]

/-- R319: the next word's register is the one of the next index, counted around the bank. -/
theorem bankIndex_next (p : Params) (a : Addr) :
    (bankIndex p (alignDown a + 16#32)).val = ((bankIndex p (alignDown a)).val + 1) % p.ioregCount := by
  have hnext : (alignDown a + 16#32).toNat = ((alignDown a).toNat + 16) % 2 ^ 32 := BitVec.toNat_add _ _
  rw [bankIndex_val, bankIndex_val, hnext]
  unfold Params.ioregCount
  cases p.variant <;> simp only <;> omega

/-- R313: a halt bit written to HSTCTLH inside a run is stored and zeroes the budget. -/
theorem State.writeRegister_halt {s : State} (run : RunCall) {a : Addr} {v : Word16} (hwf : s.cfg.wf)
    (hi : bankIndex s.cfg a = s.cfg.ioIndex.hstctlh) (hv : v.getLsbD s.cfg.hstHltBit.val = true)
    (hrun : s.inRun = true) :
    s.writeRegister run a v = .next ((s.setIo s.cfg.ioIndex.hstctlh v).setIcounter 0) := by
  have hpsize : s.cfg.ioIndex.hstctlh ≠ s.cfg.ioIndex.psize := Params.index_ne hwf 16 21 (by decide)
  have hcontrol : s.cfg.ioIndex.hstctlh ≠ s.cfg.ioIndex.control := Params.index_ne hwf 16 11 (by decide)
  simp [State.writeRegister, State.writeRegisterWith, hi, hpsize, hcontrol, State.hstctlhWritten, hv, hrun]

/-- A register write with no callback to run leaves the memory alone. -/
theorem State.writeRegister_mem {s t : State} {run : RunCall} {a : Addr} {v : Word16} (h : s.intoutCb = none)
    (ht : s.writeRegister run a v = .next t) : t.mem = s.mem := by
  unfold State.writeRegister State.writeRegisterWith at ht
  simp only at ht
  split at ht
  case isTrue => cases ht; simp
  split at ht
  case isTrue => cases ht; rfl
  split at ht
  case isTrue => cases ht; unfold State.hstctlhWritten; split <;> rfl
  split at ht
  case isTrue =>
    have hintin : ∀ (u : State) old, (u.intinWritten old).mem = u.mem := fun u old => by
      unfold State.intinWritten
      split <;> rfl
    unfold State.hstctllWritten State.callIntout at ht
    split at ht
    · simp only [State.emit_intoutCb, State.setIo_intoutCb, h] at ht
      cases ht
      exact hintin _ _
    · cases ht
      exact hintin _ _
  split at ht
  case isTrue => cases ht; rfl
  case isFalse => cases ht; rfl

/-- A 32-bit write to the I/O bank is two register writes, the second in the state that the first left. -/
theorem State.memWrite32_bankWrite {s : State} {id id' : Nat} {a : Addr} (v : Word32) (h : s.bankWrite id a)
    (k : s.bankWrite id' (alignDown a + 16#32)) (hcb : s.intoutCb = none) : ∃ u w : State,
      (s.emit (.handlerWrite id (alignDown a) (firstHalf s.cfg.word32Order v))).writeRegister refuseRun (alignDown a)
        (firstHalf s.cfg.word32Order v) = .next u
      ∧ (u.emit (.handlerWrite id' (alignDown a + 16#32) (secondHalf s.cfg.word32Order v))).writeRegister refuseRun
        (alignDown a + 16#32) (secondHalf s.cfg.word32Order v) = .next w
      ∧ s.memWrite32 a v = .next w := by
  obtain ⟨u, hu, hf⟩ := State.writeRegister_completes
    (s.emit (.handlerWrite id (alignDown a) (firstHalf s.cfg.word32Order v))) refuseRun (alignDown a)
    (firstHalf s.cfg.word32Order v) hcb
  have hmem : u.mem = s.mem := State.writeRegister_mem (s := s.emit _) hcb hu
  have hcfg : u.cfg = s.cfg := hf.cfg
  have hht : u.ht = s.ht := hf.ht
  have hkept : u.bankWrite id' (alignDown a + 16#32) := by
    simpa only [State.bankWrite, State.slot, hmem, hcfg, hht] using k
  obtain ⟨w, hw, -⟩ := State.writeRegister_completes
    (u.emit (.handlerWrite id' (alignDown a + 16#32) (secondHalf s.cfg.word32Order v))) refuseRun
    (alignDown a + 16#32) (secondHalf s.cfg.word32Order v) (hf.intoutCb.trans hcb)
  refine ⟨u, w, hu, hw, ?_⟩
  rw [s.memWrite32_eq, s.memWrite16_bankWrite _ _ _ h, hu, andThen_next, u.memWrite16_bankWrite _ _ _ hkept,
    alignDown_next, hw]

/-- Settles O25: the recorded register writes of each width, the halt write among them, and the charge. -/
theorem storesToIoBank : Obligations.StoresToIoBank := by
  intro s n addr id id' h
  have hstw := exec_stw n addr s
  rw [s.memWrite16_bankWrite _ _ _ h] at hstw
  refine ⟨hstw, fun hwf hi hv hrun => ?_, fun k hcb => ?_, bankIndex_next _ _⟩
  · have hhalt := State.writeRegister_halt
      (s := s.emit (.handlerWrite id (alignDown addr) ((s.a n).extractLsb' 0 16))) refuseRun hwf
      ((bankIndex_alignDown _ _).trans hi) hv hrun
    rw [hstw, hhalt]
    rfl
  · obtain ⟨u, w, hu, hw, hvalue⟩ := State.memWrite32_bankWrite (s.a n) h k hcb
    refine ⟨u, w, hu, hw, ?_⟩
    rw [exec_stl, hvalue]
    rfl

end Sys2Proof.Machine
end

section
/-! The bus handlers of a platform (spec/20_memory.md R92, R93). -/

namespace Sys2Proof.Machine

/-- R93: the actions take effect one after the other. -/
theorem State.applyActions_eq_foldl (acts : List BusAction) (s : State) :
    s.applyActions acts = acts.foldl State.applyAction s := by
  induction acts generalizing s with
  | nil => rfl
  | cons act acts ih => exact ih (s.applyAction act)

/-- A read that a function of the platform's serves: its value cut to the width, the call recorded, then its actions. -/
theorem State.handlerRead_platform {s : State} {id fn : Nat} (a : Addr) (n : BusWidth)
    (h : (s.slot id).rd = .platform fn) :
    s.handlerRead id a n = (cutTo n (Config.busRead fn a n s.reported s.draws).1,
      (s.tick.emit (.handlerRead id a n (cutTo n (Config.busRead fn a n s.reported s.draws).1))).applyActions
        (Config.busRead fn a n s.reported s.draws).2) := by
  simp only [State.handlerRead, State.callReadFn, h]

/-- A write that a function of the platform's serves: the call recorded, then its actions. -/
theorem State.handlerWrite_platform {s : State} {id fn : Nat} (a : Addr) (v : Word16)
    (h : (s.slot id).wr = .platform fn) :
    s.handlerWrite id a v = .next ((s.emit (.handlerWrite id a v)).tick.applyActions
      (Config.busWrite fn a v s.reported s.draws)) := by
  simp only [State.handlerWrite, h]

theorem State.memRead16_handler {s : State} {a : Addr} {id : Nat}
    (h : s.mem.readEntry s.cfg (alignDown a) = .handler id) : s.memRead16 a = s.handlerRead id (alignDown a) .w16 := by
  simp only [State.memRead16, h]

theorem State.memRead8_handler {s : State} {a : Addr} {id : Nat} (h : s.mem.readEntry s.cfg a = .handler id) :
    s.memRead8 a = ((s.handlerRead id a .w8).1.extractLsb' 0 8, (s.handlerRead id a .w8).2) := by
  simp only [State.memRead8, h]

theorem State.memWrite16_handler {s : State} {a : Addr} {id : Nat} (v : Word16)
    (h : s.mem.writeEntry s.cfg (alignDown a) = .handler id) :
    s.memWrite16 a v = s.handlerWrite id (alignDown a) v := by
  simp only [State.memWrite16, h]

/-- The byte of a value cut to 8 bits is its low byte. -/
theorem cutTo_w8_byte (v : Word16) : (cutTo .w8 v).extractLsb' 0 8 = v.extractLsb' 0 8 := by
  rw [cutTo, BitVec.extractLsb'_and]
  exact BitVec.and_allOnes

/-- Settles O26: what a platform's function answers at each width, and each action by its operation. -/
theorem busHandlerActions : Obligations.BusHandlerActions := by
  intro s a id fn
  refine ⟨fun h hfn => ?_, fun h hfn => ?_, fun v h hfn => ?_, s.memRead32_eq a, fun _ _ _ _ => rfl,
    fun _ _ _ _ => rfl, fun _ _ => rfl, rfl⟩
  · rw [State.memRead16_handler h, State.handlerRead_platform _ _ hfn, State.applyActions_eq_foldl]
    rfl
  · rw [State.memRead8_handler h, State.handlerRead_platform _ _ hfn, State.applyActions_eq_foldl, cutTo_w8_byte]
    rfl
  · rw [State.memWrite16_handler _ h, State.handlerWrite_platform _ _ hfn, State.applyActions_eq_foldl]
    rfl

end Sys2Proof.Machine
end

section
/-! Loads from memory, from the open bus and from the I/O bank (spec/20_memory.md R95 to R97, R101, R105). -/

namespace Sys2Proof.Machine

/-- Two words of all ones make a value of all ones, whichever half comes first. -/
theorem joinHalves_allOnes (ord : Word32Order) : joinHalves ord 0xFFFF#16 0xFFFF#16 = 0xFFFFFFFF#32 := by
  cases ord <;> rfl

/-- R97, R101: both halves of a 32-bit read of unmapped pages are all ones, their calls recorded in address order. -/
theorem State.memRead32_openRead {s : State} {a : Addr} (h : s.openRead a) (k : s.openRead (alignDown a + 16#32)) :
    s.memRead32 a = (0xFFFFFFFF#32, (s.emit (.handlerRead 0 (alignDown a) .w16 0xFFFF#16)).emit
      (.handlerRead 0 (alignDown a + 16#32) .w16 0xFFFF#16)) := by
  have hkept : (s.emit (.handlerRead 0 (alignDown a) .w16 0xFFFF#16)).openRead (alignDown a + 16#32) := k
  rw [s.memRead32_eq, s.memRead16_openRead _ h]
  simp only
  rw [State.memRead16_openRead _ _ hkept, alignDown_next, joinHalves_allOnes]

/-- R101: an 8-bit read of the open bus. -/
theorem State.memRead8_openBus {s : State} {a : Addr} (h : s.mem.readEntry s.cfg a = .handler 0)
    (hrd : (s.slot 0).rd = .openBus) : s.memRead8 a = (0xFF#8, s.emit (.handlerRead 0 a .w8 0x00FF#16)) := by
  rw [State.memRead8_handler h]
  simp only [State.handlerRead, State.callReadFn, hrd]
  rfl

/-- Settles O27: the read of each width, on direct pages and on unmapped ones. -/
theorem loadsFromMemoryAndOpenBus : Obligations.LoadsFromMemoryAndOpenBus := by
  intro s n addr
  refine ⟨fun v h => ?_, fun v h => ?_, fun h => ?_, fun h k => ?_, State.memRead8_openBus⟩
  · rw [exec_ldl, s.memRead32_of_peek _ _ h]
    rfl
  · rw [exec_ldw, s.memRead16_of_peek _ _ h]
    rfl
  · have hzext : 0#16 ++ 0xFFFF#16 = 0x0000FFFF#32 := by decide
    rw [exec_ldw, s.memRead16_openRead _ h]
    simp only [hzext]
    rfl
  · rw [exec_ldl, State.memRead32_openRead h k]
    simp [State.emit, State.charge, State.setA, State.setX]

/-- R97, R319: the two registers of a 32-bit read of the I/O bank; recording the first call changes no register. -/
theorem State.memRead32_bankRead {s : State} {id id' : Nat} {a : Addr} (h : s.bankRead id a)
    (k : s.bankRead id' (alignDown a + 16#32)) :
    s.memRead32 a = (joinHalves s.cfg.word32Order (s.readRegister (alignDown a)) (s.readRegister (alignDown a + 16#32)),
      (s.emit (.handlerRead id (alignDown a) .w16 (s.readRegister (alignDown a)))).emit
        (.handlerRead id' (alignDown a + 16#32) .w16 (s.readRegister (alignDown a + 16#32)))) := by
  have hkept : (s.emit (.handlerRead id (alignDown a) .w16 (s.readRegister (alignDown a)))).bankRead id'
      (alignDown a + 16#32) := k
  rw [s.memRead32_eq, s.memRead16_bankRead _ _ h]
  simp only
  rw [State.memRead16_bankRead _ _ _ hkept, alignDown_next]
  rfl

/-- R105: the byte of the aligned register that A[3] picks, in the low half of the handler's answer. -/
theorem State.ioBankRead_w8 (s : State) (a : Addr) : s.ioBankRead a .w8 =
    0#8 ++ (if a.getLsbD 3 = true then (s.readRegister (alignDown a)).extractLsb' 0 8
      else (s.readRegister (alignDown a)).extractLsb' 8 8) := by
  simp only [State.ioBankRead]
  generalize s.readRegister (alignDown a) = r
  split
  · apply BitVec.eq_of_getLsbD_eq
    intro i hi
    rw [BitVec.getLsbD_append]
    interval_cases i <;> simp
  · exact BitVec.ushiftRight_eq_extractLsb'_of_lt (by decide)

/-- R105: an 8-bit read of the I/O bank. -/
theorem State.memRead8_ioBank {s : State} {a : Addr} {id : Nat} (h : s.mem.readEntry s.cfg a = .handler id)
    (hrd : (s.slot id).rd = .ioBank) :
    s.memRead8 a = ((s.ioBankRead a .w8).extractLsb' 0 8, s.emit (.handlerRead id a .w8 (s.ioBankRead a .w8))) := by
  rw [State.memRead8_handler h]
  simp only [State.handlerRead, State.callReadFn, hrd]
  rfl

/-- Settles O28: the read of each width. -/
theorem loadsFromIoBank : Obligations.LoadsFromIoBank := by
  intro s n addr id id'
  refine ⟨fun h => ?_, fun h k => ?_, fun h hrd => ?_⟩
  · rw [exec_ldw, s.memRead16_bankRead _ _ h]
    rfl
  · rw [exec_ldl, State.memRead32_bankRead h k]
    cases s.cfg.word32Order <;> simp [joinHalves, State.emit, State.charge, State.setA, State.setX]
  · rw [State.memRead8_ioBank h hrd, State.ioBankRead_w8, low_append]
    rfl

end Sys2Proof.Machine
end

section
/-! Reads after writes, and the bytes of a word (spec/20_memory.md R94 to R98, R100, R103). -/

namespace Sys2Proof.Machine

/-- Where a word is read, if it is read where it is stored: its place does not depend on the bytes. -/
theorem State.peek16_setMem_of_ramWord {s : State} {a : Addr} {p : Nat × Nat} {m : Memory} (h : s.ramWord a)
    (hp : s.storePlace a = some p) (hrmap : m.rmap = s.mem.rmap) :
    (s.setMem m).peek16 a = some (m.wordAt p.1 p.2) := by
  obtain ⟨buf, off, hread, hwrite⟩ := h
  simp only [State.storePlace, hwrite, Option.some.injEq] at hp
  have hkept : m.readEntry s.cfg (alignDown a) = .memory buf off := by
    rw [← hread, Memory.readEntry, Memory.readEntry, hrmap]
  subst hp
  simp only [State.peek16, State.setMem_mem, State.setMem_cfg, hkept]

theorem State.storePlace_of_ramWord {s : State} {a : Addr} (h : s.ramWord a) : ∃ p, s.storePlace a = some p := by
  obtain ⟨buf, off, -, hwrite⟩ := h
  exact ⟨(buf, off + pageOffset s.cfg (alignDown a)), by simp only [State.storePlace, hwrite]⟩

/-- R96, R98: a 16-bit read after a 16-bit write to the same memory. -/
theorem State.memRead16_memWrite16 {s : State} {a : Addr} (v : Word16) (hc : s.cfg.pagesOk) (hm : s.mem.wf s.cfg)
    (h : s.ramWord a) : ∃ t, s.memWrite16 a v = .next t ∧ t.memRead16 a = (v, t) := by
  obtain ⟨p, hp⟩ := State.storePlace_of_ramWord h
  obtain ⟨-, hlen⟩ := State.storePlace_bounds hc hm hp
  refine ⟨_, s.memWrite16_storePlace _ _ _ hp, State.memRead16_of_peek _ _ _ ?_⟩
  rw [State.peek16_setMem_of_ramWord h hp (by simp), s.mem.wordAt_setWord_same _ _ hm.2.2 _ hlen]

/-- R97, R100: a 32-bit read after a 32-bit write to the same memory, each half at its own place. -/
theorem State.memRead32_memWrite32 {s : State} {a : Addr} (v : Word32) (hc : s.cfg.pagesOk) (hm : s.mem.wf s.cfg)
    (h : s.ramLong a) : ∃ t, s.memWrite32 a v = .next t ∧ t.memRead32 a = (v, t) := by
  obtain ⟨hfirst, hsecond⟩ := h
  obtain ⟨p, hp⟩ := State.storePlace_of_ramWord hfirst
  obtain ⟨q, hq⟩ := State.storePlace_of_ramWord hsecond
  obtain ⟨hpword, hqword⟩ := State.wordAt_setWord_halves hc hm hp hq (firstHalf s.cfg.word32Order v)
    (secondHalf s.cfg.word32Order v)
  refine ⟨_, State.memWrite32_storePlace v hp hq, State.memRead32_of_peek _ _ _ ?_⟩
  rw [State.peek32_of_halves (State.peek16_setMem_of_ramWord hfirst hp (by simp))
      (State.peek16_setMem_of_ramWord hsecond hq (by simp)), hpword, hqword]
  exact congrArg some (joinHalves_halves _ v)

/-- What each byte reads as after a byte of a buffer is stored. -/
theorem Memory.byteAt_setByte (m : Memory) {buf o : Nat} (v : Byte) (hw : ∀ b ∈ m.bufs, b.wf) (ho : o < m.bufLen buf)
    (b k : Nat) : (m.setByte buf o v).byteAt b k = if b = buf ∧ k = o then v else m.byteAt b k := by
  split
  case isTrue h =>
    obtain ⟨rfl, rfl⟩ := h
    exact m.byteAt_setByte_same _ _ v hw ho
  case isFalse h => exact m.byteAt_setByte_other _ _ v b k (fun e => h (by cases e; exact ⟨rfl, rfl⟩))

/-- A byte that the platform stores between runs, as a step (log 13, 22). -/
theorem step_writeBuffer {s : State} {buf o : Nat} {v : Byte} {rest : List HostOp} (hidle : s.inRun = false)
    (hq : s.inbox = .writeBuffer buf o v :: rest) :
    step s = .next { s with mem := s.mem.setByte buf o v, inbox := rest, results := s.results ++ [.unit] } := by
  rw [step_of_idle hidle, State.hostStep, hq]
  rfl

/-- Settles O29: the reads after the writes of each width, and the platform's own store. -/
theorem readAfterWrite : Obligations.ReadAfterWrite := fun s _ hwf hm =>
  ⟨fun v => State.memRead16_memWrite16 v (wf_pagesOk hwf) hm, fun v => State.memRead32_memWrite32 v (wf_pagesOk hwf) hm,
    fun _ _ v _ hidle hq ho => ⟨_, step_writeBuffer hidle hq, s.mem.setByte_rmap _ _ v, s.mem.setByte_wmap _ _ v,
      s.mem.setByte_bufLen _ _ v, s.mem.byteAt_setByte v hm.2.2 ho⟩⟩

theorem State.peek16_eq_some {s : State} {a : Addr} {v : Word16} (h : s.peek16 a = some v) :
    ∃ buf off, s.mem.readEntry s.cfg (alignDown a) = .memory buf off
      ∧ v = s.mem.wordAt buf (off + pageOffset s.cfg (alignDown a)) := by
  unfold State.peek16 at h
  split at h
  · exact ⟨_, _, by assumption, by cases h; rfl⟩
  · cases h

/-- R94: the 16 bit addresses of a word are those of its two bytes, eight each. -/
theorem byteAddr_alignDown_add (a : Addr) {j : Nat} (hj : j < 16) :
    byteAddr (alignDown a + BitVec.ofNat 32 j) = byteAddr (alignDown a) + j / 8 := by
  have := a.isLt
  unfold byteAddr
  rw [BitVec.toNat_add, alignDown_toNat, BitVec.toNat_ofNat]
  omega

/-- The second byte of a word is on the page of the first, at the next offset. -/
theorem page_of_word_byte {c : Params} (hc : c.pagesOk) (a : Addr) {j : Nat} (hj : j < 16) :
    page c (alignDown a + BitVec.ofNat 32 j) = page c (alignDown a)
    ∧ pageOffset c (alignDown a + BitVec.ofNat 32 j) = pageOffset c (alignDown a) + j / 8 := by
  have hlt := pageOffset_alignDown_lt hc a
  have hj8 : j / 8 % c.pageBytes = j / 8 := Nat.mod_eq_of_lt (by omega)
  have hroom : byteAddr (alignDown a) % c.pageBytes + j / 8 % c.pageBytes < c.pageBytes := by
    rw [hj8]
    unfold pageOffset at hlt
    omega
  rw [page_eq hc, page_eq hc, pageOffset, pageOffset, byteAddr_alignDown_add a hj]
  refine ⟨?_, ?_⟩
  · rw [Nat.add_div_eq_of_add_mod_lt hroom, Nat.div_eq_of_lt (a := j / 8) (by omega), Nat.add_zero]
  · rw [Nat.add_mod_of_add_mod_lt hroom, hj8]

/-- R95: an 8-bit read of a direct page. -/
theorem State.memRead8_memory {s : State} {a : Addr} {buf off : Nat} (h : s.mem.readEntry s.cfg a = .memory buf off) :
    s.memRead8 a = (s.mem.byteAt buf (off + pageOffset s.cfg a), s) := by
  simp only [State.memRead8, h]

/-- Settles O30: both bytes of a word are on one page, the high one first. -/
theorem byteOrder : Obligations.ByteOrder := by
  intro s a v j hwf h hj
  obtain ⟨buf, off, hread, rfl⟩ := State.peek16_eq_some h
  obtain ⟨hpage, hoffset⟩ := page_of_word_byte (wf_pagesOk hwf) a hj
  have hbyte : s.mem.readEntry s.cfg (alignDown a + BitVec.ofNat 32 j) = .memory buf off := by
    rw [← hread, Memory.readEntry, Memory.readEntry, hpage]
  rw [State.memRead8_memory hbyte, hoffset]
  split
  · rw [Nat.div_eq_of_lt (by assumption), Memory.wordAt, high_append, Nat.add_zero]
  · rw [show j / 8 = 1 by omega, Memory.wordAt, low_append, Nat.add_assoc]

end Sys2Proof.Machine
end

section
/-! The map operations and the registration of bus handlers (spec/20_memory.md R88 to R91). -/

namespace Sys2Proof.Machine

variable {m : Memory} {c : Params} {start stop dir : Nat}

theorem rangeOk_iff : rangeOk c start stop dir = true ↔
    start % c.pageBytes = 0 ∧ stop % c.pageBytes = c.pageBytes - 1 ∧ start ≤ stop ∧ stop < 2 ^ 29 ∧ dir < 4 := by
  simp only [rangeOk, Bool.and_eq_true, beq_iff_eq, decide_eq_true_eq, and_assoc]

theorem Memory.mapMemory_eq_true {buf : Nat} : (m.mapMemory c buf start stop dir).1 = true ↔
    rangeOk c start stop dir = true ∧ stop - start + 1 ≤ m.bufLen buf := by
  unfold Memory.mapMemory
  split <;> simp_all

theorem Memory.mapHandler_eq_true {id : Nat} : (m.mapHandler c id start stop dir).1 = true ↔
    rangeOk c start stop dir = true ∧ id < c.maxHandlers := by
  unfold Memory.mapHandler
  split <;> simp_all

theorem Memory.mapMemory_of_ok {buf : Nat} (h : (m.mapMemory c buf start stop dir).1 = true) :
    (m.mapMemory c buf start stop dir).2
      = m.mapRange c (fun k => .memory buf (k * c.pageBytes - start)) start stop dir := by
  unfold Memory.mapMemory at h ⊢
  split at h
  · rw [if_pos (by assumption)]
  · cases h

theorem Memory.mapHandler_of_ok {id : Nat} (h : (m.mapHandler c id start stop dir).1 = true) :
    (m.mapHandler c id start stop dir).2 = m.mapRange c (fun _ => .handler id) start stop dir := by
  unfold Memory.mapHandler at h ⊢
  split at h
  · rw [if_pos (by assumption)]
  · cases h

/-- R88: the configuration error changes nothing. -/
theorem Memory.mapMemory_of_error {buf : Nat} (h : (m.mapMemory c buf start stop dir).1 = false) :
    (m.mapMemory c buf start stop dir).2 = m := by
  unfold Memory.mapMemory at h ⊢
  split at h
  · cases h
  · rw [if_neg (by assumption)]

/-- R90: the configuration error changes nothing. -/
theorem Memory.mapHandler_of_error {id : Nat} (h : (m.mapHandler c id start stop dir).1 = false) :
    (m.mapHandler c id start stop dir).2 = m := by
  unfold Memory.mapHandler at h ⊢
  split at h
  · cases h
  · rw [if_neg (by assumption)]

/-- The pages that a range installs are those of the addresses inside it. -/
theorem page_mem_range_iff (hc : c.pagesOk) (hr : rangeOk c start stop dir = true) (a : Addr) :
    (start / c.pageBytes ≤ page c a ∧
      page c a < start / c.pageBytes + (stop / c.pageBytes + 1 - start / c.pageBytes))
    ↔ start ≤ byteAddr a ∧ byteAddr a ≤ stop := by
  obtain ⟨i, j, hstart, hstop, hi, hj, hij, -⟩ := rangeOk_pages hc hr
  have hpos := pagesOk_pos hc
  have hlow : i ≤ page c a ↔ start ≤ byteAddr a := by
    rw [page_eq hc, Nat.le_div_iff_mul_le hpos, hstart]
  have hhigh : page c a < j + 1 ↔ byteAddr a ≤ stop := by
    rw [page_eq hc, Nat.div_lt_iff_lt_mul hpos, ← hstop, Nat.lt_succ_iff]
  rw [hi, hj, ← hlow, ← hhigh]
  omega

/-- A table after a range is installed in it or not, by the direction's bit. -/
theorem sparseGet_mapped {t : List (Nat × PageEntry)} (hc : c.pagesOk) (hr : rangeOk c start stop dir = true)
    (ht : sparseWf unmapped t) (entry : Nat → PageEntry) (b : Bool) (a : Addr) :
    sparseGet unmapped (if b then
        setPages entry (start / c.pageBytes) (stop / c.pageBytes + 1 - start / c.pageBytes) t else t) (page c a)
      = if b ∧ start ≤ byteAddr a ∧ byteAddr a ≤ stop then entry (page c a) else sparseGet unmapped t (page c a) := by
  cases b with
  | false => simp
  | true => simp only [if_true, true_and, sparseGet_setPages _ _ _ _ ht, page_mem_range_iff hc hr]

theorem Memory.readEntry_mapRange (hc : c.pagesOk) (hm : m.wf c) (hr : rangeOk c start stop dir = true)
    (entry : Nat → PageEntry) (a : Addr) : (m.mapRange c entry start stop dir).readEntry c a =
      if dir.testBit 0 ∧ start ≤ byteAddr a ∧ byteAddr a ≤ stop then entry (page c a) else m.readEntry c a :=
  sparseGet_mapped hc hr hm.1.1 entry _ a

theorem Memory.writeEntry_mapRange (hc : c.pagesOk) (hm : m.wf c) (hr : rangeOk c start stop dir = true)
    (entry : Nat → PageEntry) (a : Addr) : (m.mapRange c entry start stop dir).writeEntry c a =
      if dir.testBit 1 ∧ start ≤ byteAddr a ∧ byteAddr a ≤ stop then entry (page c a) else m.writeEntry c a :=
  sparseGet_mapped hc hr hm.2.1.1 entry _ a

/-- R88: a direct entry reaches the byte at the distance of the address from the start of the range. -/
theorem direct_entry_reaches (hc : c.pagesOk) (hr : rangeOk c start stop dir = true) {a : Addr}
    (ha : start ≤ byteAddr a ∧ byteAddr a ≤ stop) :
    page c a * c.pageBytes - start + pageOffset c a = byteAddr a - start := by
  obtain ⟨i, j, hstart, -, hi, -, -, -⟩ := rangeOk_pages hc hr
  obtain ⟨hpage, -⟩ := (page_mem_range_iff hc hr a).2 ha
  have hle : start ≤ page c a * c.pageBytes := by
    rw [hi] at hpage
    exact hstart ▸ Nat.mul_le_mul_right _ hpage
  have := page_offset hc a
  omega

/-- R91: a registration succeeds on a slot of the table but slot 0. -/
theorem State.setHandler_eq_true {s : State} {id : Nat} {rd wr : BusFn} :
    (s.setHandler id rd wr).1 = true ↔ id ≠ 0 ∧ id < s.cfg.maxHandlers := by
  unfold State.setHandler
  split
  · simp only [Bool.false_eq_true, false_iff]
    omega
  · simp only [true_iff]
    omega

theorem State.setHandler_of_error {s : State} {id : Nat} {rd wr : BusFn} (h : (s.setHandler id rd wr).1 = false) :
    (s.setHandler id rd wr).2 = s := by
  unfold State.setHandler at h ⊢
  split at h
  · rw [if_pos (by assumption)]
  · cases h

theorem State.setHandler_of_ok {s : State} {id : Nat} {rd wr : BusFn} (h : (s.setHandler id rd wr).1 = true) :
    (s.setHandler id rd wr).2 = { s with ht := s.ht.set id { rd := rd, wr := wr } } := by
  unfold State.setHandler at h ⊢
  split at h
  · cases h
  · rw [if_neg (by assumption)]

/-- R91: the last registration of a slot wins, and no other slot changes. -/
theorem State.slot_set {s : State} {id : Nat} (f : BusFns) (hid : id < s.ht.length) (j : Nat) :
    ({ s with ht := s.ht.set id f } : State).slot j = if j = id then f else s.slot j := by
  unfold State.slot
  by_cases h : j = id
  · subst h
    simp [hid]
  · simp [h, Ne.symm h]

/-- Settles O31: the condition of each call, its failure, and each table after its success. -/
theorem mapOperations : Obligations.MapOperations := by
  intro s start stop dir hwf hm
  have hc := wf_pagesOk hwf
  refine ⟨fun buf => ⟨?_, fun h => ?_, fun h => ?_⟩, fun id => ⟨?_, fun h => ?_, fun h => ?_⟩,
    fun id rd wr hlen => ⟨State.setHandler_eq_true, State.setHandler_of_error, fun h => ?_⟩⟩
  · refine Memory.mapMemory_eq_true.trans ?_
    rw [rangeOk_iff]
    constructor <;> (rintro ⟨hr, hl⟩; exact ⟨hr, by omega⟩)
  · exact congrArg s.setMem (Memory.mapMemory_of_error h)
  · obtain ⟨hr, -⟩ := Memory.mapMemory_eq_true.1 h
    have hmem : (s.mapMemory buf start stop dir).2.mem = _ := Memory.mapMemory_of_ok h
    refine ⟨rfl, Memory.mapMemory_bufs _ _ _ _ _ _, fun a => ?_⟩
    simp only [hmem, Memory.readEntry_mapRange hc hm hr, Memory.writeEntry_mapRange hc hm hr]
    exact ⟨fun ha => ⟨_, if_pos ha, direct_entry_reaches hc hr ha.2⟩, fun ha => if_neg ha,
      fun ha => ⟨_, if_pos ha, direct_entry_reaches hc hr ha.2⟩, fun ha => if_neg ha⟩
  · refine Memory.mapHandler_eq_true.trans ?_
    rw [rangeOk_iff]
  · exact congrArg s.setMem (Memory.mapHandler_of_error h)
  · obtain ⟨hr, -⟩ := Memory.mapHandler_eq_true.1 h
    have hmem : (s.mapHandler id start stop dir).2.mem = _ := Memory.mapHandler_of_ok h
    refine ⟨rfl, Memory.mapHandler_bufs _ _ _ _ _ _, fun a => ?_⟩
    simp only [hmem, Memory.readEntry_mapRange hc hm hr, Memory.writeEntry_mapRange hc hm hr, and_self]
  · obtain ⟨-, hid⟩ := State.setHandler_eq_true.1 h
    rw [State.setHandler_of_ok h]
    exact ⟨rfl, List.length_set, State.slot_set _ (hlen ▸ hid)⟩

end Sys2Proof.Machine
end

section
/-! Words of an unassigned index under TH (spec/45_test_handlers.md R243, 20_memory.md R101). -/

namespace Sys2Proof.Machine

variable {s : State}

/-- R243: a word of an unassigned index has no operand words, and stands for itself. -/
theorem State.fetchRest_unassigned {w : Word16} (hth : s.cfg.handlers = .th) (hw : 0x00D0 ≤ w.toNat) :
    s.fetchRest w = (.dispatch w, s) := by
  have hindex : 13 ≤ thIndex w := by
    unfold thIndex
    omega
  rw [s.fetchRest_th0 hth (thOperandWords_unassigned hindex), decodeTh_unassigned hindex]

/-- R243: its dispatch is refused where it stands. -/
theorem exec_dispatch_unassigned {w : Word16} (hth : s.cfg.handlers = .th) (hw : 0x00D0 ≤ w.toNat) :
    exec (.dispatch w) s = .refused (.unassignedTestOpcode w s) := by
  rw [exec_dispatch_th s w hth, State.fetchRest_unassigned hth hw]
  rfl

/-- R275: with nothing to take, the interrupt check changes nothing. -/
theorem State.serviceInterrupts_of_quiet (hn : s.nmiPending = false) (hm : s.maskablePending = false) :
    s.serviceInterrupts = .next s := by
  simp [State.serviceInterrupts, hn, hm]

/-- R101, R166: the fetch of an opcode word from a page that no read is mapped on. -/
theorem State.fetchOpcode_of_openRead (h : s.openRead s.pc) :
    s.fetchOpcode = (0xFFFF#16, { s with
      pc := s.operandAddr
      events := s.noteFetch.events ++ [.handlerRead 0 (alignDown s.pc) .w16 0xFFFF#16] }) := by
  have hkept : (s.noteFetch.setPc (alignDown s.pc)).openRead s.pc := by
    simpa [State.openRead, State.slot] using h
  rw [State.fetchOpcode_eq, State.memRead16_openRead _ _ hkept]
  unfold State.noteFetch
  split <;> rfl

/-- R164, R243: an iteration that fetches a word of an unassigned index is refused in the state after the fetch. -/
theorem iteration_unassigned {t : State} {w : Word16} (hquiet : s.serviceInterrupts = .next s)
    (hfetch : s.fetchOpcode = (w, t)) (hth : t.cfg.handlers = .th) (hw : 0x00D0 ≤ w.toNat) :
    iteration s = .refused (.unassignedTestOpcode w t) := by
  rw [iteration, hquiet, andThen_next, State.fetchInstr, hfetch]
  simp only
  rw [State.fetchRest_unassigned hth hw]
  exact exec_dispatch_unassigned hth hw

/-- Settles O19: the refusal of a dispatch, then the step whose fetch gets all ones from the open bus. -/
theorem unassignedWordRefused : Obligations.UnassignedWordRefused := by
  refine ⟨fun s w => exec_dispatch_unassigned, fun s hth hquiet hopen => ?_⟩
  obtain ⟨hrun, hloop, hnmi, hmask⟩ := hquiet
  rw [step_of_loopCondition hrun hloop]
  exact iteration_unassigned (State.serviceInterrupts_of_quiet hnmi hmask) (State.fetchOpcode_of_openRead hopen) hth
    (by decide)

end Sys2Proof.Machine
end

section
/-! The decoder and the encoder on an opcode word and its operand words (spec/30_encoding.md R136 to R140). -/

namespace Sys2Proof

@[simp] theorem thIndex_thWord (k : BitVec 12) (n : RegNo) : thIndex (thWord k n) = k.toNat := thIndex_append k n

@[simp] theorem thReg_thWord (k : BitVec 12) (n : RegNo) : thReg (thWord k n) = n := thReg_append k n

/-- R136: a word of index `k` is the opcode word of `k` and its own register field. -/
theorem thWord_of_thIndex {w : Word16} {k : Nat} (h : thIndex w = k) : thWord (BitVec.ofNat 12 k) (thReg w) = w :=
  h ▸ thIndex_append_thReg w

/-- R137: a list of at most two operand words, by its words. -/
theorem take_operands {ws : List Word16} (h : ws.length ≤ 2) : [ws.getD 0 0, ws.getD 1 0].take ws.length = ws := by
  match ws, h with
  | [], _ => rfl
  | [_], _ => rfl
  | [_, _], _ => rfl

/-- R139: under TH the encoding of what a word stands for is the word and the operand words of its format. -/
theorem encode_decodeTh (ord : Word32Order) (w first second : Word16) :
    encode ord (decodeTh ord w first second) = w :: [first, second].take (thOperandWords w) := by
  by_cases hindex : 13 ≤ thIndex w
  · rw [decodeTh_unassigned hindex, thOperandWords_unassigned hindex]
    rfl
  · interval_cases hk : thIndex w <;> simp [decodeTh, thOperandWords, hk, encode, thWord_of_thIndex hk]

/-- R134, R139: the encoding of what an opcode word and its operand words stand for is these words. -/
theorem encode_decodeWords {hs : HandlerSet} (ord : Word32Order) {w : Word16} {ws : List Word16}
    (h : ws.length = operandWords hs w) :
    encode ord (decodeWords hs ord w (ws.getD 0 0) (ws.getD 1 0)) = w :: ws := by
  have htake := take_operands (h.trans_le (operandWords_le hs w))
  rw [h] at htake
  cases hs with
  | th => exact (encode_decodeTh ord w _ _).trans (congrArg (w :: ·) htake)
  | platform => exact congrArg (w :: ·) htake

/-- R140: TH gives the generic dispatch for the words of the unassigned indices alone. -/
theorem decodeTh_eq_dispatch {ord : Word32Order} {w first second v : Word16}
    (h : decodeTh ord w first second = .dispatch v) : 13 ≤ thIndex w ∧ v = w := by
  have hindex : 13 ≤ thIndex w := by
    by_contra hassigned
    interval_cases hk : thIndex w <;> simp [decodeTh, hk] at h
  rw [decodeTh_unassigned hindex] at h
  exact ⟨hindex, (Instr.dispatch.inj h).symm⟩

/-- R139, R140: TH has every instruction but the generic dispatch of an assigned word. -/
theorem wellFormed_th_iff {i : Instr} : i.wellFormed .th = true ↔ ∀ v, i = .dispatch v → 13 ≤ thIndex v := by
  cases i <;> simp [Instr.wellFormed, thIndex]

/-- R134: a platform's table has the generic dispatch of every word and nothing else. -/
theorem wellFormed_platform_iff {i : Instr} : i.wellFormed .platform = true ↔ ∃ v, i = .dispatch v := by
  cases i <;> simp [Instr.wellFormed]

/-- R134, R139, R140: what an opcode word stands for is an instruction of the table. -/
theorem decodeWords_wellFormed (hs : HandlerSet) (ord : Word32Order) (w first second : Word16) :
    (decodeWords hs ord w first second).wellFormed hs = true := by
  cases hs with
  | th =>
    refine wellFormed_th_iff.2 fun v h => ?_
    obtain ⟨hindex, rfl⟩ := decodeTh_eq_dispatch h
    exact hindex
  | platform => rfl

/-- R136 to R139: the encoding of an instruction of the table is an opcode word and its operand words, which stand for
the instruction. -/
theorem encode_eq_words {hs : HandlerSet} (ord : Word32Order) {i : Instr} (h : i.wellFormed hs = true) :
    ∃ w ws, encode ord i = w :: ws ∧ ws.length = operandWords hs w
      ∧ decodeWords hs ord w (ws.getD 0 0) (ws.getD 1 0) = i := by
  cases hs with
  | platform =>
    obtain ⟨v, rfl⟩ := wellFormed_platform_iff.1 h
    exact ⟨v, [], rfl, rfl, rfl⟩
  | th =>
    cases i with
    | dispatch v =>
      have hindex := wellFormed_th_iff.1 h v rfl
      exact ⟨v, [], rfl, (thOperandWords_unassigned hindex).symm, decodeTh_unassigned hindex ord _ _⟩
    | _ =>
      refine ⟨_, _, rfl, ?_, ?_⟩
      · simp [operandWords, thOperandWords]
      · simp [decodeWords, decodeTh]

end Sys2Proof
end

section
/-! The decoder on bytes: it answers exactly on an opcode word with all its operand words (spec/30_encoding.md R131,
R135, R137). -/

namespace Sys2Proof

/-- R103: `n` words can be read from the front of any bytes that are long enough. -/
theorem exists_layWords_append {n : Nat} {bytes : List Byte} (h : 2 * n ≤ bytes.length) :
    ∃ ws rest, ws.length = n ∧ bytes = layWords ws ++ rest := by
  induction n generalizing bytes with
  | zero => exact ⟨[], bytes, rfl, rfl⟩
  | succ n ih =>
    match bytes, h with
    | hi :: lo :: tail, h =>
      obtain ⟨ws, rest, hlen, rfl⟩ := ih (bytes := tail) (by simp only [List.length_cons] at h; omega)
      exact ⟨(hi ++ lo) :: ws, rest, by rw [List.length_cons, hlen],
        takeWord_eq_some (bytes := hi :: lo :: (layWords ws ++ rest)) rfl⟩

/-- R131, R137: an opcode word with all its operand words decodes to what they stand for. -/
theorem decode_layWords_append {hs : HandlerSet} (ord : Word32Order) {w : Word16} {ws : List Word16}
    (h : ws.length = operandWords hs w) (rest : List Byte) :
    decode hs ord (layWords (w :: ws) ++ rest) = .ok (decodeWords hs ord w (ws.getD 0 0) (ws.getD 1 0)) rest := by
  have hle := h.trans_le (operandWords_le hs w)
  unfold decode
  simp only [layWords, List.append_assoc, takeWord_wordBytes, ← h]
  match ws, hle with
  | [], _ => rfl
  | [_], _ => simp [layWords]
  | [_, _], _ => simp [layWords]

/-- R130: without two bytes there is no opcode word. -/
theorem decode_of_length_lt {hs : HandlerSet} {ord : Word32Order} {bytes : List Byte} (h : bytes.length < 2) :
    decode hs ord bytes = .refused .noOpcodeWord := by
  match bytes, h with
  | [], _ => rfl
  | [_], _ => rfl

/-- R137: an opcode word whose operand words are not all there is refused. -/
theorem decode_of_missing {hs : HandlerSet} {ord : Word32Order} {hi lo : Byte} {rest : List Byte}
    (h : rest.length < 2 * operandWords hs (hi ++ lo)) :
    decode hs ord (hi :: lo :: rest) = .refused (.missingOperand (hi ++ lo)) := by
  have hle := operandWords_le hs (hi ++ lo)
  unfold decode
  simp only [takeWord]
  generalize operandWords hs (hi ++ lo) = n at h hle ⊢
  match n, hle, rest, h with
  | 1, _, [], _ => rfl
  | 1, _, [_], _ => rfl
  | 2, _, [], _ => rfl
  | 2, _, [_], _ => rfl
  | 2, _, [_, _], _ => rfl
  | 2, _, [_, _, _], _ => rfl

/-- Everything the decoder can answer. -/
theorem decode_cases (hs : HandlerSet) (ord : Word32Order) (bytes : List Byte) :
    bytes.length < 2
    ∨ (∃ hi lo rest, bytes = hi :: lo :: rest ∧ rest.length < 2 * operandWords hs (hi ++ lo))
    ∨ ∃ w ws rest, bytes = layWords (w :: ws) ++ rest ∧ ws.length = operandWords hs w
      ∧ decode hs ord bytes = .ok (decodeWords hs ord w (ws.getD 0 0) (ws.getD 1 0)) rest := by
  match bytes with
  | [] => exact .inl (by simp)
  | [_] => exact .inl (by simp)
  | hi :: lo :: tail =>
    by_cases hmissing : tail.length < 2 * operandWords hs (hi ++ lo)
    · exact .inr (.inl ⟨hi, lo, tail, rfl, hmissing⟩)
    · obtain ⟨ws, rest, hlen, rfl⟩ := exists_layWords_append (Nat.le_of_not_lt hmissing)
      have hbytes : hi :: lo :: (layWords ws ++ rest) = layWords ((hi ++ lo) :: ws) ++ rest := takeWord_eq_some rfl
      rw [hbytes]
      exact .inr (.inr ⟨_, ws, rest, rfl, hlen, decode_layWords_append ord hlen rest⟩)

/-- Settles O1: an encoding is an opcode word with all its operand words, which the decoder reads back. -/
theorem decodeEncodeRoundTrip : Obligations.DecodeEncodeRoundTrip := by
  intro hs ord i rest hwf
  obtain ⟨w, ws, hwords, hlen, hi⟩ := encode_eq_words ord hwf
  rw [encodeBytes, hwords, decode_layWords_append ord hlen, hi]

/-- Settles O2: of the three cases of the decoder only the whole instruction decodes. -/
theorem encodeDecodeRoundTrip : Obligations.EncodeDecodeRoundTrip := by
  intro hs ord bytes i rest h
  obtain hshort | ⟨hi, lo, tail, rfl, hmissing⟩ | ⟨w, ws, rest', hbytes, hlen, hok⟩ := decode_cases hs ord bytes
  · rw [decode_of_length_lt hshort] at h
    cases h
  · rw [decode_of_missing hmissing] at h
    cases h
  · rw [hok] at h
    cases h
    exact ⟨decodeWords_wellFormed hs ord w _ _, by rw [encodeBytes, encode_decodeWords ord hlen, hbytes]⟩

/-- Settles O3: of the three cases of the decoder the two that lack a word are refused. -/
theorem decodeRefusesOnlyMissingWords : Obligations.DecodeRefusesOnlyMissingWords := by
  intro hs ord bytes
  constructor
  · rintro ⟨r, h⟩
    obtain hshort | hmissing | ⟨w, ws, rest, -, -, hok⟩ := decode_cases hs ord bytes
    · exact .inl hshort
    · exact .inr hmissing
    · rw [hok] at h
      cases h
  · rintro (hshort | ⟨hi, lo, rest, rfl, hmissing⟩)
    · exact ⟨_, decode_of_length_lt hshort⟩
    · exact ⟨_, decode_of_missing hmissing⟩

/-- Settles O4: the decoder evaluated on the eight byte sequences. -/
theorem thWordsDecode : Obligations.ThWordsDecode := by
  unfold Obligations.ThWordsDecode
  decide

end Sys2Proof
end

section
/-! The dispatch of an assigned word under TH (spec/40_dispatch_loop.md R169, 45_test_handlers.md R244). -/

namespace Sys2Proof.Machine

/-- R244: an instruction of TH's own does in its handler what it does by itself. -/
theorem thHandler_eq_exec {i : Instr} (h : ∀ v, i ≠ .dispatch v) (s : State) : thHandler i s = exec i s := by
  cases i with
  | dispatch v => exact absurd rfl (h v)
  | _ => rfl

/-- R139: a word of an assigned index decodes to an instruction of TH's own. -/
theorem decode_assigned_ne_dispatch {ord : Word32Order} {w : Word16} {ws : List Word16} {i : Instr}
    (hw : w.toNat < 0x00D0) (h : decode .th ord (layWords (w :: ws)) = .ok i []) (v : Word16) : i ≠ .dispatch v := by
  rintro rfl
  obtain ⟨-, hv⟩ := decode_layWords h
  have hindex : 13 ≤ w.toNat / 16 := (decodeTh_eq_dispatch hv.symm).1
  omega

/-- Settles O20: the handler of the word fetches the operand words, and its instruction is TH's own. -/
theorem dispatchRunsTheInstruction : Obligations.DispatchRunsTheInstruction := by
  intro s w ws i hth hw hws hdecode
  have hrest := s.fetchRest_of_words hws (by rwa [hth])
  rw [exec_dispatch_th s w hth, hrest]
  exact thHandler_eq_exec (decode_assigned_ne_dispatch hw hdecode) _

end Sys2Proof.Machine
end

section
/-! The contract of a platform's opcode handler (spec/40_dispatch_loop.md R168): what its program leaves unchanged,
whatever it is, where no interrupt-output callback is registered. -/

namespace Sys2Proof.Machine

namespace State

variable (s : State)

theorem charge_onlyHandler (cost : Nat) : s.OnlyHandlerEffects (s.charge cost) := by constructor <;> rfl

theorem setPc_onlyHandler (v : Addr) : s.OnlyHandlerEffects (s.setPc v) := by constructor <;> rfl

theorem setSt_onlyHandler (v : Word32) : s.OnlyHandlerEffects (s.setSt v) := by constructor <;> rfl

theorem setX_onlyHandler (i : Fin 31) (v : Word32) : s.OnlyHandlerEffects (s.setX i v) := by constructor <;> rfl

theorem setShiftreg_onlyHandler (l : List Byte) : s.OnlyHandlerEffects { s with shiftreg := l } := by
  constructor <;> rfl

theorem setPending_onlyHandler (bit : Fin 16) (b : Bool) : s.OnlyHandlerEffects (s.setPending bit b) := by
  constructor <;> rfl

theorem stop_onlyHandler : s.OnlyHandlerEffects s.stop := by constructor <;> rfl

/-- R280: the end of the entry sequence touches what its vector read can touch, `st`, `pc`, the budget and the
events. -/
theorem enterVector_onlyHandler (source : IntSource) (vec : Addr) :
    s.OnlyHandlerEffects (s.enterVector source vec) := by
  rw [enterVector_eq]
  exact (s.setSt_onlyHandler s.cfg.stInit).trans
    (((memRead32_onlyBus _ vec).toStore.toHandler).trans (by constructor <;> rfl))

end State

variable {s t : State}

/-- A push is within the contract. -/
theorem State.push32_onlyHandler {v : Word32} (hcb : s.intoutCb = none) (h : s.push32 v = .next t) :
    s.OnlyHandlerEffects t := by
  obtain ⟨u, hu, honly⟩ := s.push32_completes v hcb
  obtain rfl : u = t := Host.Outcome.next.inj (hu.symm.trans h)
  exact (s.setX_onlyHandler _ _).trans honly.toHandler

/-- R271, R280: the entry sequence is within the contract. -/
theorem State.take_onlyHandler {source : IntSource} {vec : Addr} (hcb : s.intoutCb = none)
    (h : s.take source vec = .next t) : s.OnlyHandlerEffects t := by
  obtain ⟨u, hpc, h⟩ := andThen_eq_next.1 h
  obtain ⟨v, hst, h⟩ := andThen_eq_next.1 h
  cases h
  have hu := State.push32_onlyHandler hcb hpc
  have hv := State.push32_onlyHandler (hu.intoutCb.trans hcb) hst
  exact (hu.trans hv).trans (v.enterVector_onlyHandler source vec)

/-- A 16-bit write is within the contract. -/
theorem State.memWrite16_onlyHandler {a : Addr} {v : Word16} (hcb : s.intoutCb = none)
    (h : s.memWrite16 a v = .next t) : s.OnlyHandlerEffects t := by
  obtain ⟨u, hu, honly⟩ := s.memWrite16_completes a v hcb
  obtain rfl : u = t := Host.Outcome.next.inj (hu.symm.trans h)
  exact honly.toHandler

/-- A 32-bit write is within the contract. -/
theorem State.memWrite32_onlyHandler {a : Addr} {v : Word32} (hcb : s.intoutCb = none)
    (h : s.memWrite32 a v = .next t) : s.OnlyHandlerEffects t := by
  obtain ⟨u, hu, honly⟩ := s.memWrite32_completes a v hcb
  obtain rfl : u = t := Host.Outcome.next.inj (hu.symm.trans h)
  exact honly.toHandler

/-- The rest of a program within the contract after a first part within it, which registers no callback. -/
theorem State.OnlyHandlerEffects.andThen {u : State} (first : s.OnlyHandlerEffects u) (hcb : s.intoutCb = none)
    (rest : u.intoutCb = none → u.OnlyHandlerEffects t) : s.OnlyHandlerEffects t :=
  first.trans (rest (first.intoutCb.trans hcb))

/-- R168: every program keeps the contract, by induction over its tree. -/
theorem runHandler_onlyHandler {p : HandlerProg} (hcb : s.intoutCb = none) (h : runHandler p s = .next t) :
    s.OnlyHandlerEffects t := by
  induction p generalizing s with
  | ret cost =>
    cases h
    exact s.charge_onlyHandler cost
  | fault reason => cases h
  | refuse reason => cases h
  | read k ih => exact ih s hcb h
  | writePc v k ih => exact (s.setPc_onlyHandler v).andThen hcb (ih · h)
  | writeSt v k ih => exact (s.setSt_onlyHandler v).andThen hcb (ih · h)
  | writeX i v k ih => exact (s.setX_onlyHandler i v).andThen hcb (ih · h)
  | writeShiftreg i v k ih => exact (s.setShiftreg_onlyHandler _).andThen hcb (ih · h)
  | memRead8 a k ih => exact (s.memRead8_onlyBus a).toStore.toHandler.andThen hcb (ih _ · h)
  | memRead16 a k ih => exact (s.memRead16_onlyBus a).toStore.toHandler.andThen hcb (ih _ · h)
  | memRead32 a k ih => exact (s.memRead32_onlyBus a).toStore.toHandler.andThen hcb (ih _ · h)
  | memWrite16 a v k ih =>
    obtain ⟨u, hwrite, hrest⟩ := andThen_eq_next.1 h
    exact (State.memWrite16_onlyHandler hcb hwrite).andThen hcb (ih · hrest)
  | memWrite32 a v k ih =>
    obtain ⟨u, hwrite, hrest⟩ := andThen_eq_next.1 h
    exact (State.memWrite32_onlyHandler hcb hwrite).andThen hcb (ih · hrest)
  | setWv k ih => exact (s.setPending_onlyHandler _ true).andThen hcb (ih · h)
  | stop k ih => exact s.stop_onlyHandler.andThen hcb (ih · h)
  | trap source vec k ih =>
    obtain ⟨u, htake, hrest⟩ := andThen_eq_next.1 h
    exact (State.take_onlyHandler hcb htake).andThen hcb (ih · hrest)
  | hook k ih =>
    rw [runHandler] at h
    split at h
    · exact ih hcb h
    · cases h
  | run budget => cases h

end Sys2Proof.Machine
end

section
/-! The programs of a platform's table that make no bus access, no call of `stop` and no entry of their own
(spec/40_dispatch_loop.md R168, 60_exceptions.md R278). -/

namespace Sys2Proof.Machine

/-- What a direct program can touch: within the contract, the budget by a cost alone, and of the rest of the state but
`pc`, `st`, the register file and the shift-register buffer the WV bit alone. -/
structure State.OnlyDirectEffects (s t : State) : Prop where
  handler : s.OnlyHandlerEffects t
  cost : ∃ cost : Nat, t.icounter = s.icounter - cost
  stopFlag : t.stopFlag = s.stopFlag
  line0 : t.line0 = s.line0
  line1 : t.line1 = s.line1
  mem : t.mem = s.mem
  events : t.events = s.events
  pixelshift : t.pixelshift = s.pixelshift
  ropSel : t.ropSel = s.ropSel
  io : ∀ i, i ≠ s.cfg.ioIndex.intpend → t.ioAt i = s.ioAt i
  intpend : ∀ j, j < 16 → j ≠ s.cfg.bitWv.val →
    (t.ioAt s.cfg.ioIndex.intpend).getLsbD j = (s.ioAt s.cfg.ioIndex.intpend).getLsbD j

namespace State

variable {s t u : State}

theorem OnlyDirectEffects.trans (h : s.OnlyDirectEffects t) (k : t.OnlyDirectEffects u) : s.OnlyDirectEffects u where
  handler := h.handler.trans k.handler
  cost := by
    obtain ⟨c, hc⟩ := h.cost
    obtain ⟨d, hd⟩ := k.cost
    exact ⟨c + d, by rw [hd, hc]; omega⟩
  stopFlag := k.stopFlag.trans h.stopFlag
  line0 := k.line0.trans h.line0
  line1 := k.line1.trans h.line1
  mem := k.mem.trans h.mem
  events := k.events.trans h.events
  pixelshift := k.pixelshift.trans h.pixelshift
  ropSel := k.ropSel.trans h.ropSel
  io i hi := (k.io i (by rwa [h.handler.cfg])).trans (h.io i hi)
  intpend j hj hwv := by
    have hk := k.intpend j hj (by rwa [h.handler.cfg])
    rw [h.handler.cfg] at hk
    exact hk.trans (h.intpend j hj hwv)

/-- The charge of a cost at the end. -/
theorem charge_onlyDirect (s : State) (cost : Nat) : s.OnlyDirectEffects (s.charge cost) := by
  constructor
  case handler => exact s.charge_onlyHandler cost
  case cost => exact ⟨cost, rfl⟩
  all_goals intros; rfl

/-- A write of `pc`, `st`, the register file or the shift-register buffer. -/
theorem own_onlyDirect (s : State) (x : Vector Word32 31) (pc : Addr) (st : Word32) (shiftreg : List Byte) :
    s.OnlyDirectEffects { s with x, pc, st, shiftreg } := by
  constructor
  case handler => constructor <;> rfl
  case cost => exact ⟨0, (Int.sub_zero _).symm⟩
  all_goals intros; rfl

/-- R278: setting the WV bit. -/
theorem setWv_onlyDirect (s : State) : s.OnlyDirectEffects (s.setPending s.cfg.bitWv true) := by
  constructor
  case handler => exact s.setPending_onlyHandler _ true
  case cost => exact ⟨0, (Int.sub_zero _).symm⟩
  case io =>
    intro i hi
    rw [setPending, ioAt_setIo, if_neg hi]
  case intpend =>
    intro j hj hwv
    rw [setPending, ioAt_setIo, if_pos rfl, setBit16_getLsbD _ _ _ _ hj, if_neg hwv]
  all_goals rfl

end State

/-- R168: a direct program has direct effects, by induction over its tree. -/
theorem runHandler_onlyDirect {p : HandlerProg} {s t : State} (hd : directHandler p) (h : runHandler p s = .next t) :
    s.OnlyDirectEffects t := by
  induction p generalizing s with
  | ret cost =>
    cases h
    exact s.charge_onlyDirect cost
  | fault reason => cases h
  | refuse reason => cases h
  | read k ih => exact ih s (hd s) h
  | writePc v k ih => exact (s.own_onlyDirect s.x v s.st s.shiftreg).trans (ih hd h)
  | writeSt v k ih => exact (s.own_onlyDirect s.x s.pc v s.shiftreg).trans (ih hd h)
  | writeX i v k ih => exact (s.own_onlyDirect (s.setX i v).x s.pc s.st s.shiftreg).trans (ih hd h)
  | writeShiftreg i v k ih => exact (s.own_onlyDirect s.x s.pc s.st (s.shiftreg.set i v)).trans (ih hd h)
  | memRead8 a k => exact hd.elim
  | memRead16 a k => exact hd.elim
  | memRead32 a k => exact hd.elim
  | memWrite16 a v k => exact hd.elim
  | memWrite32 a v k => exact hd.elim
  | setWv k ih => exact s.setWv_onlyDirect.trans (ih hd h)
  | stop k => exact hd.elim
  | trap source vec k => exact hd.elim
  | hook k ih =>
    rw [runHandler] at h
    split at h
    · exact ih hd h
    · cases h
  | run budget => cases h

/-- R169: the dispatch of a word through a platform's table. -/
theorem exec_dispatch_platform {s : State} (w : Word16) (h : s.cfg.handlers = .platform) :
    exec (.dispatch w) s = runHandler (Config.handlerProgram (dispatchIndex s.cfg w) w s.draws) s.tick := by
  change execDispatch w s = _
  unfold execDispatch
  rw [h]

/-- Settles O21: the dispatch, the ends and calls of a program by its equations, then the two frames. -/
theorem handlerContract : Obligations.HandlerContract := by
  refine ⟨fun s w => exec_dispatch_platform w, fun _ _ => rfl, fun _ _ => rfl, fun _ _ _ _ => rfl, fun _ _ => rfl,
    fun p s t => runHandler_onlyHandler, fun p s t hd h => ?_⟩
  have hframe := runHandler_onlyDirect hd h
  exact ⟨hframe.handler, hframe.cost, hframe.stopFlag, hframe.line0, hframe.line1, hframe.mem, hframe.events,
    hframe.pixelshift, hframe.ropSel, hframe.io, hframe.intpend⟩

end Sys2Proof.Machine
end

section
/-! The loop condition, and an iteration whose instruction lies in memory (spec/40_dispatch_loop.md R164 to R169,
R174). -/

namespace Sys2Proof.Machine

variable {s t : State}

/-- R164: a run goes on with a budget left and no stop asked for. -/
theorem State.loopCondition_eq_true : s.loopCondition = true ↔ 0 < s.icounter ∧ s.stopFlag = false := by
  simp [State.loopCondition]

/-- R164, R170: a run ends with the budget used up or a stop asked for. -/
theorem State.loopCondition_eq_false : s.loopCondition = false ↔ s.icounter ≤ 0 ∨ s.stopFlag = true := by
  rw [← Bool.not_eq_true, State.loopCondition_eq_true, not_and_or, not_lt, Bool.not_eq_false]

/-- R165 to R169, R174: the instruction an iteration runs is the one at the `pc` that the interrupt check left. -/
theorem iteration_of_words {w : Word16} {ws : List Word16} {i : Instr} (hservice : s.serviceInterrupts = .next t)
    (hw : t.peek16 t.pc = some w) (hws : t.wordsAt t.operandAddr ws)
    (hdecode : decode t.cfg.handlers t.cfg.word32Order (layWords (w :: ws)) = .ok i []) :
    iteration s = exec i (t.noteFetch.setPc (t.operandAddr + 16#32 * BitVec.ofNat 32 ws.length)) := by
  rw [iteration, hservice, andThen_next, t.fetchInstr_of_words hw hws hdecode]

/-- Settles O6: the step is an iteration, which goes on where the interrupt check led. -/
theorem stepServicesInterruptsFirst : Obligations.StepServicesInterruptsFirst := by
  intro s t w ws i hrun hbudget hstop hservice hw hws hdecode
  rw [step_of_loopCondition hrun (State.loopCondition_eq_true.2 ⟨hbudget, hstop⟩)]
  exact iteration_of_words hservice hw hws hdecode

/-- Settles O5: the same iteration, whose interrupt check changes nothing. -/
theorem stepRunsDecodedInstruction : Obligations.StepRunsDecodedInstruction := by
  intro s w ws i hquiet hw hws hdecode
  obtain ⟨hrun, hloop, hnmi, hmask⟩ := hquiet
  rw [step_of_loopCondition hrun hloop]
  exact iteration_of_words (State.serviceInterrupts_of_quiet hnmi hmask) hw hws hdecode

end Sys2Proof.Machine
end

section
/-! The entry and the exit of a run that the host asks for (spec/40_dispatch_loop.md R160 to R163, R170, 10_state.md
R49). -/

namespace Sys2Proof.Machine

variable {s : State}

/-- R160, R200: a step between runs makes the oldest call of the queue. -/
theorem step_of_hostCall {op : HostOp} {rest : List HostOp} (hidle : s.inRun = false) (hq : s.inbox = op :: rest) :
    step s = ({ s with inbox := rest } : State).hostCall op := by
  rw [step_of_idle hidle, State.hostStep, hq]

/-- Between runs with no call to make, a step changes nothing (log 13). -/
theorem step_of_emptyQueue (hidle : s.inRun = false) (hq : s.inbox = []) : step s = .next s := by
  rw [step_of_idle hidle, State.hostStep, hq]

/-- R161: a halted core answers a run with 0. -/
theorem State.hostCall_run_of_halted (budget : Int) (hidle : s.inRun = false) (hhalt : s.halted = true) :
    s.hostCall (.run budget) = .next (s.answer (.consumed 0)) := by
  simp [State.hostCall, State.runEntry, hidle, hhalt]

/-- R162, R163: a core that is not halted enters the run. -/
theorem State.hostCall_run_of_running (budget : Int) (hidle : s.inRun = false) (hhalt : s.halted = false) :
    s.hostCall (.run budget) = s.enterRun budget := by
  simp [State.hostCall, State.runEntry, hidle, hhalt]

/-- Settles O50: the call at the head of the queue is the run, which the halt bit decides. -/
theorem runEntry : Obligations.RunEntry := by
  intro s budget rest hidle hq
  refine ⟨fun hhalt => ?_, fun hhalt => ?_⟩
  · rw [step_of_hostCall hidle hq, State.hostCall_run_of_halted (s := { s with inbox := rest }) budget hidle hhalt]
    rfl
  · rw [step_of_hostCall hidle hq, State.hostCall_run_of_running (s := { s with inbox := rest }) budget hidle hhalt]
    rfl

/-- R49, R170: the exit of a run adds to the total what the reported total already counted. -/
theorem State.reported_endRun (hrun : s.inRun = true) : s.endRun.reported = s.reported := by
  rw [State.reported_of_idle (s := s.endRun) rfl, State.reported, if_pos hrun]
  rfl

/-- Settles O51: the step is the exit of the run. -/
theorem runExit : Obligations.RunExit := by
  intro s hrun hend
  exact ⟨s.runExit, step_of_loopEnd hrun (State.loopCondition_eq_false.2 hend), rfl, asTotal_of_nonneg,
    State.reported_endRun hrun⟩

end Sys2Proof.Machine
end

section
/-! A run that a callback makes between runs, against the steps of the same run (spec/40_dispatch_loop.md R160, R170,
R176, R178, 41_host_interface.md R208). -/

namespace Sys2Proof.Machine

variable {s t v : State} {n fuel : Nat} {budget : Int}

/-- Inside a run with no host call queued after it, so that no other run can follow its exit. -/
def State.loneRun (s : State) : Prop := s.inRun = true ∧ s.inbox = []

/-- R162, R163: the entry and its timer check leave the core inside the run, the queue untouched. -/
theorem State.enterRun_loneRun (hq : s.inbox = []) (h : s.enterRun budget = .next t) : t.loneRun := by
  obtain ⟨-, -, hrun, hinbox, -⟩ := closed_accounts.enterRun s budget t h rfl
  exact ⟨hrun, hinbox.trans hq⟩

/-- An iteration neither ends its run nor queues a call. -/
theorem iteration_loneRun (hs : s.loneRun) (h : iteration s = .next t) : t.loneRun := by
  obtain ⟨hin, hq⟩ := hs
  obtain ⟨-, -, hrun, hinbox, -⟩ := closed_accounts.iteration s t h hin
  exact ⟨hrun, hinbox.trans hq⟩

/-- With no call to make, the machine stays between runs as it is. -/
theorem stepN_of_emptyQueue (n : Nat) (hidle : s.inRun = false) (hq : s.inbox = []) : stepN n s = .next s := by
  induction n with
  | zero => rfl
  | succ n ih => rw [stepN, step_of_emptyQueue hidle hq, andThen_next, ih]

/-- Where the condition of the loop fails, the loop ends, whatever fuel is left. -/
theorem runLoop_of_loopEnd (fuel : Nat) (h : s.loopCondition = false) : runLoop fuel s = .next s := by
  cases fuel <;> simp [runLoop, h]

/-- R164: with fuel left, the loop is an iteration and the rest of the loop. -/
theorem runLoop_of_loopCondition (fuel : Nat) (h : s.loopCondition = true) :
    runLoop (fuel + 1) s = andThen (iteration s) (runLoop fuel) := by
  simp [runLoop, h]

/-- R164, R170: steps that end inside the run, where its loop ends, are the iterations of the loop: a step of another
kind would be the exit, after which nothing enters a run again. -/
theorem runLoop_of_stepN (hn : n ≤ fuel) (hs : s.loneRun) (hv : stepN n s = .next v) (hrun : v.inRun = true)
    (hend : v.loopCondition = false) : runLoop fuel s = .next v := by
  induction n generalizing s fuel with
  | zero =>
    cases hv
    exact runLoop_of_loopEnd fuel hend
  | succ n ih =>
    obtain ⟨u, hstep, hrest⟩ := andThen_eq_next.1 hv
    obtain ⟨hin, hq⟩ := hs
    cases hloop : s.loopCondition with
    | true =>
      obtain ⟨fuel, rfl⟩ := Nat.exists_eq_add_one.2 (Nat.zero_lt_of_lt hn)
      rw [step_of_loopCondition hin hloop] at hstep
      rw [runLoop_of_loopCondition fuel hloop, hstep, andThen_next]
      exact ih (Nat.le_of_succ_le_succ hn) (iteration_loneRun ⟨hin, hq⟩ hstep) hrest
    | false =>
      rw [step_of_loopEnd hin hloop] at hstep
      cases hstep
      rw [stepN_of_emptyQueue (s := s.runExit) n rfl hq] at hrest
      cases hrest
      cases hrun

/-- R176: a run inside a run is refused. -/
theorem State.nestedRun_of_inRun (budget : Int) (h : s.inRun = true) :
    State.nestedRun budget s = .refused (.reentrantRun s) := by
  simp [State.nestedRun, h]

/-- R161: a halted core answers 0. -/
theorem State.nestedRun_of_halted (budget : Int) (hidle : s.inRun = false) (hhalt : s.halted = true) :
    State.nestedRun budget s = .next (0, s) := by
  simp [State.nestedRun, hidle, hhalt]

/-- R160, R170: a run whose loop ends at `v` answers what it consumed, after the exit from there. -/
theorem State.nestedRun_of_runLoop (hidle : s.inRun = false) (hhalt : s.halted = false)
    (henter : s.enterRun budget = .next t) (hloop : runLoop (Config.extraIterations + budget.toNat) t = .next v) :
    State.nestedRun budget s = .next (v.consumed, v.endRun) := by
  simp [State.nestedRun, hidle, hhalt, henter, hloop]

/-- Settles O52: a program's run and the host's calls by their equations; the run by its loop, which is the steps. -/
theorem callbackRun : Obligations.CallbackRun := by
  refine ⟨fun _ _ _ => ⟨rfl, rfl⟩, fun s rest hidle => ?_, fun s budget => ⟨State.nestedRun_of_inRun budget,
    State.nestedRun_of_halted budget, fun e v n hidle hhalt hq henter hn hsteps hrun hend => ?_⟩⟩
  · exact ⟨fun _ => step_of_hostCall hidle, fun _ _ => step_of_hostCall hidle, fun _ _ => step_of_hostCall hidle⟩
  · rw [State.hostCall_run_of_running budget hidle hhalt] at henter
    have hloop := runLoop_of_stepN hn (State.enterRun_loneRun hq henter) hsteps hrun hend
    exact ⟨v.endRun, State.nestedRun_of_runLoop hidle hhalt henter hloop, step_of_loopEnd hrun hend⟩

end Sys2Proof.Machine
end

section
/-! The levels the host sets on the two external lines (spec/41_host_interface.md R203, R211). -/

namespace Sys2Proof.Machine

variable {s : State}

/-- R203: line 0 requests INT1 and records its level. -/
theorem State.setIrqLine_int1 (level : LineLevel) :
    s.setIrqLine 0 level = (true, (s.setPending s.cfg.bitInt1 (level ≠ .clear)).setLine0 level) := rfl

/-- R203: line 1 requests INT2 and records its level. -/
theorem State.setIrqLine_int2 (level : LineLevel) :
    s.setIrqLine 1 level = (true, (s.setPending s.cfg.bitInt2 (level ≠ .clear)).setLine1 level) := rfl

/-- R203, R211: any other line is a configuration error. -/
theorem State.setIrqLine_of_noLine {line : Int} (level : LineLevel) (h0 : line ≠ 0) (h1 : line ≠ 1) :
    s.setIrqLine line level = (false, s) := by
  simp [State.setIrqLine, h0, h1]

/-- R200, R211: a step whose oldest call sets a line makes that call and records whether it was in order. -/
theorem step_setIrqLine {line : Int} {level : LineLevel} {rest : List HostOp} {ok : Bool} {t : State}
    (hidle : s.inRun = false) (hq : s.inbox = .setIrqLine line level :: rest)
    (hcall : ({ s with inbox := rest } : State).setIrqLine line level = (ok, t)) :
    step s = .next (t.answer (if ok then .ok else .error)) := by
  rw [step_of_hostCall hidle hq, State.hostCall, hcall, okOrError]

/-- Settles O53: the call at the head of the queue sets INT1's line, INT2's line, or none. -/
theorem setIrqLine : Obligations.SetIrqLine := by
  intro s line level rest hidle hq
  refine ⟨?int1, ?int2, ?noLine⟩
  case int1 =>
    rintro rfl
    exact step_setIrqLine hidle hq (State.setIrqLine_int1 level)
  case int2 =>
    rintro rfl
    exact step_setIrqLine hidle hq (State.setIrqLine_int2 level)
  case noLine => exact fun h0 h1 => step_setIrqLine hidle hq (State.setIrqLine_of_noLine level h0 h1)

end Sys2Proof.Machine
end

section
/-! The save state: what a source must be to load, and what a load leaves (spec/41_host_interface.md R215 to R217). -/

namespace Sys2Proof.Machine

variable {s t : State} {src : List SaveItem} {f : Saved}

/-- R215: between runs a state answers its items. -/
theorem State.serializeOp_of_idle (hidle : s.inRun = false) : s.serializeOp = .next s.saveItems := by
  simp [State.serializeOp, hidle]

/-- R215: inside a run a save is refused. -/
theorem State.serializeOp_of_inRun (hrun : s.inRun = true) : s.serializeOp = .refused (.serializeInRun s) := by
  simp [State.serializeOp, hrun]

/-- R216: inside a run a load is refused. -/
theorem State.deserializeOp_of_inRun (hrun : s.inRun = true) (src : List SaveItem) :
    s.deserializeOp src = .refused (.serializeInRun s) := by
  simp [State.deserializeOp, hrun]

/-- R216: between runs a source that is read is restored. -/
theorem State.deserializeOp_of_readSaved (hidle : s.inRun = false) (hread : readSaved s.cfg src = some f) :
    s.deserializeOp src = .next (true, s.restore f) := by
  simp [State.deserializeOp, hidle, hread]

/-- R216: between runs a source that is not read is answered with the error. -/
theorem State.deserializeOp_of_mismatch (hidle : s.inRun = false) (hread : readSaved s.cfg src = none) :
    s.deserializeOp src = .next (false, s) := by
  simp [State.deserializeOp, hidle, hread]

/-- R215, R216: a source is read exactly when its items have the kinds of the field list, taken in its order. -/
theorem readSaved_isSome (p : Params) (src : List SaveItem) :
    (readSaved p src).isSome ↔ src.map kindOf = savedKinds p := by
  simp only [savedKinds, List.append_assoc, List.cons_append, List.nil_append]
  refine takeItem_isSome _ _ word32_isSome _ _ _ fun pc src => ?_
  refine takeItem_isSome _ _ word32_isSome _ _ _ fun st src => ?_
  refine takeItems_isSome _ _ word32_isSome _ _ _ _ fun x src => ?_
  refine takeItems_isSome _ _ word16_isSome _ _ _ _ fun io src => ?_
  refine takeItem_isSome _ _ int_isSome _ _ _ fun icounter src => ?_
  refine takeItem_isSome _ _ nat_isSome _ _ _ fun totalCycles src => ?_
  refine takeItem_isSome _ _ int_isSome _ _ _ fun cyclesStart src => ?_
  refine takeItem_isSome _ _ bool_isSome _ _ _ fun timerActive src => ?_
  refine takeItem_isSome _ _ int_isSome _ _ _ fun timerCyc src => ?_
  refine takeItems_isSome _ _ byte_isSome _ _ _ _ fun shiftreg src => ?_
  refine takeItem_isSome _ _ bool_isSome _ _ _ fun stopFlag src => ?_
  refine takeItem_isSome _ _ level_isSome _ _ _ fun line0 src => ?_
  refine takeItem_isSome _ _ level_isSome _ _ _ fun line1 src => ?_
  refine takeItem_isSome _ _ nat_isSome _ _ _ fun timerStamp src => ?_
  cases src <;> simp

/-- The saved registers of the bank are those that exist. -/
theorem State.savedIo_getD (i : Fin 64) (d : Word16) (hi : i.val < s.cfg.ioregCount) :
    s.savedIo.getD i.val d = s.ioAt i := by
  simp [State.savedIo, State.ioAt, List.getD_eq_getElem?_getD, hi]

/-- R216: a load writes the bank's registers that the source holds. -/
theorem State.restore_ioAt (i : Fin 64) : (t.restore f).ioAt i = f.io.getD i.val (t.ioAt i) := by
  simp [State.ioAt, State.restore_io]

/-- R217: the loaded register file is the saved one. -/
theorem State.restore_saved_x : (t.restore s.saved).x = s.x := by
  rw [State.restore_x]
  ext i hi
  simp [State.saved]

/-- R217: the loaded I/O registers that exist are the saved ones. -/
theorem State.restore_saved_ioAt (i : Fin 64) (hi : i.val < s.cfg.ioregCount) :
    (t.restore s.saved).ioAt i = s.ioAt i := by
  rw [State.restore_ioAt]
  exact s.savedIo_getD i _ hi

/-- R38: PSIZE and CONTROL are registers of the bank. -/
theorem Params.cached_lt {p : Params} (h : p.wf) :
    p.ioIndex.psize.val < p.ioregCount ∧ p.ioIndex.control.val < p.ioregCount := by
  obtain ⟨-, -, -, -, -, hlt, -⟩ := h
  exact ⟨hlt _ (by simp [IoIndex.all]), hlt _ (by simp [IoIndex.all])⟩

/-- R46: current caches of equal registers are equal, `pixelshift` where PSIZE is legal. -/
theorem State.caches_eq (hc : t.cfg = s.cfg) (hpsize : t.ioAt s.cfg.ioIndex.psize = s.ioAt s.cfg.ioIndex.psize)
    (hcontrol : t.ioAt s.cfg.ioIndex.control = s.ioAt s.cfg.ioIndex.control) (hs : s.cachesCurrent)
    (ht : t.cachesCurrent) : t.ropSel = s.ropSel
      ∧ (pixelshiftOf (s.ioAt s.cfg.ioIndex.psize) ≠ none → t.pixelshift = s.pixelshift) := by
  obtain ⟨hsp, hsr⟩ := hs
  obtain ⟨htp, htr⟩ := ht
  rw [hc] at htp htr
  rw [hpsize] at htp
  rw [hcontrol] at htr
  refine ⟨htr.trans hsr.symm, fun hlegal => ?_⟩
  obtain ⟨k, hk⟩ := Option.ne_none_iff_exists'.1 hlegal
  rw [htp k hk, hsp k hk]

/-- R46, R217: a load leaves the caches of the saved state, for it recomputes them from the same registers. -/
theorem State.restore_saved_caches (hs : s.Inv) (hc : t.cfg = s.cfg) :
    (t.restore s.saved).ropSel = s.ropSel
      ∧ (pixelshiftOf (s.ioAt s.cfg.ioIndex.psize) ≠ none → (t.restore s.saved).pixelshift = s.pixelshift) := by
  obtain ⟨hwf, -, -, -, -, hcaches⟩ := hs
  obtain ⟨hpsize, hcontrol⟩ := Params.cached_lt hwf
  exact State.caches_eq ((t.restore_cfg _).trans hc) (State.restore_saved_ioAt _ hpsize)
    (State.restore_saved_ioAt _ hcontrol) hcaches (State.recomputed_cachesCurrent _)

/-- Settles O55: the items are read back as the fields they were saved from, which the load restores; a source is read
exactly when its kinds match. -/
theorem saveLoadRoundTrip : Obligations.SaveLoadRoundTrip := by
  refine ⟨fun s t hs hsidle htidle hc => ?roundTrip, fun s src hidle => ?source, fun s hrun => ?inRun⟩
  case roundTrip =>
    have ⟨_, _, _, _, hshift, _⟩ := hs
    have hread : readSaved t.cfg s.saveItems = some s.saved := hc ▸ readSaved_saveItems s hshift
    obtain ⟨hrop, hpixel⟩ := State.restore_saved_caches hs hc
    refine ⟨s.saveItems, t.restore s.saved, State.serializeOp_of_idle hsidle,
      State.deserializeOp_of_readSaved htidle hread, ?_⟩
    exact ⟨State.restore_pc _ _, State.restore_st _ _, State.restore_saved_x, State.restore_saved_ioAt,
      State.restore_icounter _ _, State.restore_totalCycles _ _, State.restore_cyclesStart _ _,
      State.restore_timerActive _ _, State.restore_timerCyc _ _, State.restore_shiftreg _ _,
      State.restore_stopFlag _ _, State.restore_line0 _ _, State.restore_line1 _ _, State.restore_timerStamp _ _,
      hrop, hpixel, State.restore_cfg _ _, (State.restore_inRun _ _).trans htidle, State.restore_mem _ _,
      State.restore_ht _ _, State.restore_timerCb _ _, State.restore_intoutCb _ _, State.restore_events _ _⟩
  case source =>
    refine ⟨fun hkinds => ?_, fun hkinds => ?_⟩
    · have hread := Option.not_isSome_iff_eq_none.1 (mt (readSaved_isSome s.cfg src).1 hkinds)
      exact State.deserializeOp_of_mismatch hidle hread
    · obtain ⟨f, hread⟩ := Option.isSome_iff_exists.1 ((readSaved_isSome s.cfg src).2 hkinds)
      exact ⟨s.restore f, State.deserializeOp_of_readSaved hidle hread⟩
  case inRun => exact ⟨State.serializeOp_of_inRun hrun, State.deserializeOp_of_inRun hrun⟩

end Sys2Proof.Machine
end

section
/-! The dispatch of an instruction's own word under TH, wherever its operand words lie (spec/30_encoding.md R131, R136 to
R139, 40_dispatch_loop.md R169). -/

namespace Sys2Proof.Machine

variable {s : State} {w : Word16} {i : Instr}

/-- R139: the words an instruction of TH's own is encoded in are the word of its format and what it decodes from. -/
theorem decodeTh_of_encode {ord : Word32Order} {ws : List Word16} (hi : ∀ v, i ≠ .dispatch v)
    (henc : encode ord i = w :: ws) :
    ws.length = thOperandWords w ∧ decodeTh ord w (ws.getD 0 0) (ws.getD 1 0) = i := by
  obtain ⟨w', ws', henc', hlen, hdecode⟩ := encode_eq_words ord (wellFormed_th_iff.2 fun v h => absurd h (hi v))
  obtain ⟨rfl, rfl⟩ := List.cons.inj (henc.symm.trans henc')
  exact ⟨hlen, hdecode⟩

/-- R169: the word of an instruction with no operand words does what the instruction does. -/
theorem exec_dispatch_noOperand (hth : s.cfg.handlers = .th) (hi : ∀ v, i ≠ .dispatch v)
    (henc : encode s.cfg.word32Order i = [w]) : exec (.dispatch w) s = exec i s := by
  obtain ⟨hlen, hdecode⟩ := decodeTh_of_encode hi henc
  rw [exec_dispatch_th s w hth, s.fetchRest_th0 hth hlen.symm]
  exact (congrArg (thHandler · s) hdecode).trans (thHandler_eq_exec hi s)

/-- R131, R169: the word of an instruction with a 16-bit operand reads it at `pc` and moves `pc` past it. -/
theorem exec_dispatch_operand16 (hth : s.cfg.handlers = .th) (hi : ∀ v, i ≠ .dispatch v)
    (henc : encode s.cfg.word32Order i = [w, (s.memRead16 s.pc).1]) :
    exec (.dispatch w) s = exec i ((s.memRead16 s.pc).2.setPc (s.pc + 16#32)) := by
  obtain ⟨hlen, hdecode⟩ := decodeTh_of_encode hi henc
  rw [exec_dispatch_th s w hth, s.fetchRest_th1 hth hlen.symm]
  exact (congrArg (thHandler · _) hdecode).trans (thHandler_eq_exec hi _)

/-- R131, R169: the word of an instruction with a 32-bit operand reads it at `pc` and moves `pc` past it. -/
theorem exec_dispatch_operand32 (hth : s.cfg.handlers = .th) (hi : ∀ v, i ≠ .dispatch v)
    (henc : encode s.cfg.word32Order i = [w, firstHalf s.cfg.word32Order (s.memRead32 s.pc).1,
      secondHalf s.cfg.word32Order (s.memRead32 s.pc).1]) :
    exec (.dispatch w) s = exec i ((s.memRead32 s.pc).2.setPc (s.pc + 32#32)) := by
  have hread : (s.memRead32 s.pc).1 =
      joinHalves s.cfg.word32Order (s.memReadHalves s.pc).1 (s.memReadHalves s.pc).2.1 := rfl
  rw [hread, firstHalf_joinHalves, secondHalf_joinHalves] at henc
  obtain ⟨hlen, hdecode⟩ := decodeTh_of_encode hi henc
  rw [exec_dispatch_th s w hth, s.fetchRest_th2 hth hlen.symm]
  exact (congrArg (thHandler · _) hdecode).trans (thHandler_eq_exec hi _)

/-- A bus access leaves the general registers. -/
theorem State.OnlyBusEffects.a {t : State} (h : s.OnlyBusEffects t) (n : RegNo) : t.a n = s.a n :=
  State.xAt_congr h.x _

@[simp] theorem State.a_setPc (s : State) (v : Addr) (n : RegNo) : (s.setPc v).a n = s.a n := rfl

/-- R47: a charge in a state with the budget of another one, in terms of that budget. -/
theorem State.next_charge_of_icounter {t : State} {cost : Nat} (h : t.icounter = s.icounter) :
    (.next (t.charge cost) : Result State) = .next { t with icounter := s.icounter - cost } := by
  rw [State.charge, h]

end Sys2Proof.Machine
end

section
/-! The results of TH's instructions that access no memory of their own: NOP, MOVI, ADDI, DSJ, EINT, DINT, JMPA and TSTOP
(spec/45_test_handlers.md R230 to R233, R238, R239, R241, R242). -/

namespace Sys2Proof.Machine

/-- R230. -/
theorem exec_nop (n : RegNo) (s : State) : exec (.nop n) s = .next (s.charge 1) := rfl

/-- R231. -/
theorem exec_movi (n : RegNo) (imm : Word32) (s : State) :
    exec (.movi n imm) s = .next ((s.setA n imm).charge 3) := rfl

/-- R232. -/
theorem exec_addi (n : RegNo) (imm : Word16) (s : State) :
    exec (.addi n imm) s = .next ((s.setA n (s.a n + imm.signExtend 32)).charge 2) := rfl

/-- A register after a write of it. -/
@[simp] theorem State.a_setA (s : State) (n : RegNo) (v : Word32) : (s.setA n v).a n = v := by
  simp [State.a, State.setA, State.xAt_setX]

/-- R233: the decremented register decides. -/
theorem exec_dsj (n : RegNo) (disp : Word16) (s : State) :
    exec (.dsj n disp) s =
      if s.a n - 1#32 ≠ 0#32 then
        .next (((s.setA n (s.a n - 1#32)).setPc (s.pc + disp.signExtend 32 * 16#32)).charge 3)
      else .next ((s.setA n 0#32).charge 2) := by
  change execDsj n disp s = _
  simp only [execDsj, State.a_setA]
  split
  · rfl
  next h => rw [not_not.1 h]

/-- R238. -/
theorem exec_eint (n : RegNo) (s : State) :
    exec (.eint n) s = .next ((s.setSt (stWithIe s.cfg s.st true)).charge 1) := rfl

/-- R239. -/
theorem exec_dint (n : RegNo) (s : State) :
    exec (.dint n) s = .next ((s.setSt (stWithIe s.cfg s.st false)).charge 1) := rfl

/-- R245: IE is written and every other bit of the status kept. -/
theorem stWithIe_getLsbD (p : Params) (st : Word32) (b : Bool) {j : Nat} (hj : j < 32) :
    (stWithIe p st b).getLsbD j = if j = p.ieBit.val then b else st.getLsbD j := by
  rw [stWithIe, ← BitVec.twoPow_eq]
  by_cases h : j = p.ieBit.val
  · subst h
    cases b <;> simp [hj]
  · cases b <;> simp [hj, h]

/-- R241. -/
theorem exec_jmpa (n : RegNo) (addr : Addr) (s : State) : exec (.jmpa n addr) s = .next ((s.setPc addr).charge 3) := rfl

/-- R242. -/
theorem exec_tstop (n : RegNo) (s : State) : exec (.tstop n) s = .next (s.stop.charge 1) := rfl

/-- Settles O7: its word stands for it. -/
theorem nopResult : Obligations.NopResult :=
  fun s n => ⟨exec_nop n s, fun hth => (exec_dispatch_noOperand hth (i := .nop n) nofun rfl).trans (exec_nop n s)⟩

/-- Settles O8: the read of the constant leaves the budget. -/
theorem moviResult : Obligations.MoviResult := by
  intro s n imm
  have hbus := s.memRead32_onlyBus s.pc
  refine ⟨exec_movi n imm s, fun hth => ?_, hbus⟩
  refine (exec_dispatch_operand32 hth (i := .movi n _) nofun rfl).trans ?_
  rw [exec_movi]
  generalize s.memRead32 s.pc = r at hbus ⊢
  exact State.next_charge_of_icounter hbus.icounter

/-- Settles O9: the read of the constant leaves the budget and the register it is added to. -/
theorem addiResult : Obligations.AddiResult := by
  intro s n imm
  have hbus := s.memRead16_onlyBus s.pc
  refine ⟨exec_addi n imm s, fun hth => ?_, hbus⟩
  refine (exec_dispatch_operand16 hth (i := .addi n _) nofun rfl).trans ?_
  rw [exec_addi, State.a_setPc, hbus.a]
  generalize s.memRead16 s.pc = r at hbus ⊢
  exact State.next_charge_of_icounter hbus.icounter

/-- Settles O10: the read of the displacement leaves the budget and the register that decides. -/
theorem dsjResult : Obligations.DsjResult := by
  intro s n disp
  have hbus := s.memRead16_onlyBus s.pc
  refine ⟨exec_dsj n disp s, fun hth => ?_, hbus⟩
  refine (exec_dispatch_operand16 hth (i := .dsj n _) nofun rfl).trans ?_
  rw [exec_dsj, State.a_setPc, hbus.a]
  generalize s.memRead16 s.pc = r at hbus ⊢
  split
  · exact State.next_charge_of_icounter hbus.icounter
  · exact State.next_charge_of_icounter hbus.icounter

/-- Settles O15: the status with IE written, on the state and on the dispatched word alike. -/
theorem eintDintResult : Obligations.EintDintResult := by
  refine fun s n => ⟨⟨stWithIe s.cfg s.st true, exec_eint n s, fun hth => ?_, fun j => stWithIe_getLsbD _ _ _⟩,
    ⟨stWithIe s.cfg s.st false, exec_dint n s, fun hth => ?_, fun j => stWithIe_getLsbD _ _ _⟩⟩
  · exact (exec_dispatch_noOperand hth (i := .eint n) nofun rfl).trans (exec_eint n s)
  · exact (exec_dispatch_noOperand hth (i := .dint n) nofun rfl).trans (exec_dint n s)

/-- Settles O17: the read of the address leaves the budget. -/
theorem jmpaResult : Obligations.JmpaResult := by
  intro s n addr
  have hbus := s.memRead32_onlyBus s.pc
  refine ⟨exec_jmpa n addr s, fun hth => ?_, hbus⟩
  refine (exec_dispatch_operand32 hth (i := .jmpa n _) nofun rfl).trans ?_
  rw [exec_jmpa]
  generalize s.memRead32 s.pc = r at hbus ⊢
  exact State.next_charge_of_icounter hbus.icounter

/-- Settles O18: its word stands for it. -/
theorem tstopResult : Obligations.TstopResult :=
  fun s n => ⟨exec_tstop n s, fun hth => (exec_dispatch_noOperand hth (i := .tstop n) nofun rfl).trans (exec_tstop n s)⟩

end Sys2Proof.Machine
end

section
/-! The results of the loads and the stores and of RETI (spec/45_test_handlers.md R234 to R237, R240, 60_exceptions.md
R286). -/

namespace Sys2Proof.Machine

/-- Settles O11: the read of the address leaves the register that is stored. -/
theorem stlResult : Obligations.StlResult := by
  intro s n addr
  have hbus := s.memRead32_onlyBus s.pc
  refine ⟨exec_stl n addr s, fun hth => ?_, hbus⟩
  refine (exec_dispatch_operand32 hth (i := .stl n _) nofun rfl).trans ?_
  rw [exec_stl, State.a_setPc, hbus.a]
  rfl

/-- R235, R47: the read leaves the budget. -/
theorem exec_ldl_of_icounter {s t : State} (h : t.icounter = s.icounter) (n : RegNo) (a : Addr) :
    exec (.ldl n a) t = .next { (t.memRead32 a).2.setA n (t.memRead32 a).1 with icounter := s.icounter - 4 } := by
  have hbus := t.memRead32_onlyBus a
  rw [exec_ldl]
  generalize t.memRead32 a = r at hbus ⊢
  exact State.next_charge_of_icounter (hbus.icounter.trans h)

/-- Settles O12: the read of the address leaves the budget too. -/
theorem ldlResult : Obligations.LdlResult := by
  intro s n addr
  refine ⟨exec_ldl_of_icounter rfl n addr, s.memRead32_onlyBus addr, fun hth => ⟨?_, State.memRead32_onlyBus _ _⟩⟩
  refine (exec_dispatch_operand32 hth (i := .ldl n _) nofun rfl).trans ?_
  exact exec_ldl_of_icounter (t := { (s.memRead32 s.pc).2 with pc := s.pc + 32#32 })
    (s.memRead32_onlyBus s.pc).icounter n _

/-- Settles O13: the read of the address leaves the register whose low half is stored. -/
theorem stwResult : Obligations.StwResult := by
  intro s n addr
  have hbus := s.memRead32_onlyBus s.pc
  refine ⟨exec_stw n addr s, fun hth => ?_, hbus⟩
  refine (exec_dispatch_operand32 hth (i := .stw n _) nofun rfl).trans ?_
  rw [exec_stw, State.a_setPc, hbus.a]
  rfl

/-- R237, R47: the read leaves the budget. -/
theorem exec_ldw_of_icounter {s t : State} (h : t.icounter = s.icounter) (n : RegNo) (a : Addr) :
    exec (.ldw n a) t =
      .next { (t.memRead16 a).2.setA n (0#16 ++ (t.memRead16 a).1) with icounter := s.icounter - 3 } := by
  have hbus := t.memRead16_onlyBus a
  rw [exec_ldw]
  generalize t.memRead16 a = r at hbus ⊢
  exact State.next_charge_of_icounter (hbus.icounter.trans h)

/-- Settles O14: the read of the address leaves the budget too. -/
theorem ldwResult : Obligations.LdwResult := by
  intro s n addr
  refine ⟨exec_ldw_of_icounter rfl n addr, s.memRead16_onlyBus addr, fun hth => ⟨?_, State.memRead16_onlyBus _ _⟩⟩
  refine (exec_dispatch_operand32 hth (i := .ldw n _) nofun rfl).trans ?_
  exact exec_ldw_of_icounter (t := { (s.memRead32 s.pc).2 with pc := s.pc + 32#32 })
    (s.memRead32_onlyBus s.pc).icounter n _

/-- R286: the state after the first pop of a return, whose read is of the status. -/
abbrev State.popSt (s : State) : State :=
  { (s.memRead32 s.sp).2.setSp (s.sp + 32#32) with st := (s.memRead32 s.sp).1 }

/-- R286: the `pc` is read above the status, and SP ends above both. -/
theorem State.returnFromInterrupt_eq (s : State) : s.returnFromInterrupt =
    ((s.popSt.memRead32 (s.sp + 32#32)).2.setSp (s.sp + 64#32)).setPc (s.popSt.memRead32 (s.sp + 32#32)).1 := by
  have hsp : s.popSt.sp = s.sp + 32#32 := State.sp_setSp _ _
  have htwice : s.sp + 32#32 + 32#32 = s.sp + 64#32 := BitVec.add_assoc _ _ _
  have hpop := s.popSt.pop32_eq
  rw [hsp, htwice] at hpop
  rw [State.returnFromInterrupt, s.pop32_eq]
  exact congrArg (fun q : Word32 × State => q.2.setPc q.1) hpop

/-- R240. -/
theorem exec_reti (n : RegNo) (s : State) : exec (.reti n) s = .next (s.returnFromInterrupt.charge 8) := rfl

/-- Settles O16: the two pops leave the budget. -/
theorem retiResult : Obligations.RetiResult := by
  intro s n
  have hst := s.memRead32_onlyBus s.sp
  have hpc := s.popSt.memRead32_onlyBus (s.sp + 32#32)
  refine ⟨?_, fun hth => exec_dispatch_noOperand hth (i := .reti n) nofun rfl, hst, hpc⟩
  have hbudget := hpc.icounter.trans hst.icounter
  rw [exec_reti, State.returnFromInterrupt_eq]
  generalize s.popSt.memRead32 (s.sp + 32#32) = q at hbudget ⊢
  exact State.next_charge_of_icounter hbudget

end Sys2Proof.Machine
end

section
/-! The writes of the I/O bank's registers, each said once (spec/60_exceptions.md R310 to R315). -/

namespace Sys2Proof.Machine

variable {s : State} {a : Addr} {v : Word16}

@[simp] theorem State.ioAt_setIo_same (s : State) (i : Fin 64) (v : Word16) : (s.setIo i v).ioAt i = v := by
  rw [State.ioAt_setIo, if_pos rfl]

/-- The later of two plain stores of a register wins. -/
theorem State.setIo_setIo (s : State) (i : Fin 64) (v w : Word16) : (s.setIo i v).setIo i w = s.setIo i w := by
  simp [State.setIo]

/-- R310: a register with no side effect. -/
theorem State.writeRegister_raw (run : RunCall) (hpsize : bankIndex s.cfg a ≠ s.cfg.ioIndex.psize)
    (hcontrol : bankIndex s.cfg a ≠ s.cfg.ioIndex.control) (hhstctlh : bankIndex s.cfg a ≠ s.cfg.ioIndex.hstctlh)
    (hhstctll : bankIndex s.cfg a ≠ s.cfg.ioIndex.hstctll) (hintpend : bankIndex s.cfg a ≠ s.cfg.ioIndex.intpend) :
    s.writeRegister run a v = .next (s.setIo (bankIndex s.cfg a) v) := by
  simp [State.writeRegister, State.writeRegisterWith, hpsize, hcontrol, hhstctlh, hhstctll, hintpend]

/-- R312: PSIZE. -/
theorem State.writeRegister_psize (run : RunCall) (hi : bankIndex s.cfg a = s.cfg.ioIndex.psize) :
    s.writeRegister run a v = .next (s.setIo s.cfg.ioIndex.psize v).recomputePixelshift := by
  simp [State.writeRegister, State.writeRegisterWith, hi]

/-- R311: CONTROL. -/
theorem State.writeRegister_control (run : RunCall) (hwf : s.cfg.wf)
    (hi : bankIndex s.cfg a = s.cfg.ioIndex.control) :
    s.writeRegister run a v = .next (s.setIo s.cfg.ioIndex.control v).recomputeRopSel := by
  have hpsize : s.cfg.ioIndex.control ≠ s.cfg.ioIndex.psize := Params.index_ne hwf 11 21 (by decide)
  simp [State.writeRegister, State.writeRegisterWith, hi, hpsize]

/-- R313: HSTCTLH. -/
theorem State.writeRegister_hstctlh (run : RunCall) (hwf : s.cfg.wf)
    (hi : bankIndex s.cfg a = s.cfg.ioIndex.hstctlh) :
    s.writeRegister run a v = .next ((s.setIo s.cfg.ioIndex.hstctlh v).hstctlhWritten v) := by
  have hpsize : s.cfg.ioIndex.hstctlh ≠ s.cfg.ioIndex.psize := Params.index_ne hwf 16 21 (by decide)
  have hcontrol : s.cfg.ioIndex.hstctlh ≠ s.cfg.ioIndex.control := Params.index_ne hwf 16 11 (by decide)
  simp [State.writeRegister, State.writeRegisterWith, hi, hpsize, hcontrol]

/-- R313: the budget after a write of `v` to HSTCTLH. -/
theorem State.hstctlhWritten_eq (s : State) (v : Word16) : s.hstctlhWritten v = { s with
    icounter := if v.getLsbD s.cfg.hstHltBit.val = true ∧ s.inRun = true then 0 else s.icounter } := by
  simp only [State.hstctlhWritten, Bool.and_eq_true]
  split <;> rfl

/-- R314: HSTCTLL, the interrupt-out part and then the interrupt-in part. -/
theorem State.writeRegister_hstctll (run : RunCall) (hwf : s.cfg.wf)
    (hi : bankIndex s.cfg a = s.cfg.ioIndex.hstctll) :
    s.writeRegister run a v = andThen
      (if rises (s.ioAt s.cfg.ioIndex.hstctll) v s.cfg.hstIntoutBit then
        ((s.setIo s.cfg.ioIndex.hstctll v).emit .intOut).callIntout (callIntoutCb run)
      else .next (s.setIo s.cfg.ioIndex.hstctll v))
      (fun w => .next (w.intinWritten (s.ioAt s.cfg.ioIndex.hstctll))) := by
  have hpsize : s.cfg.ioIndex.hstctll ≠ s.cfg.ioIndex.psize := Params.index_ne hwf 15 21 (by decide)
  have hcontrol : s.cfg.ioIndex.hstctll ≠ s.cfg.ioIndex.control := Params.index_ne hwf 15 11 (by decide)
  have hhstctlh : s.cfg.ioIndex.hstctll ≠ s.cfg.ioIndex.hstctlh := Params.index_ne hwf 15 16 (by decide)
  simp [State.writeRegister, State.writeRegisterWith, hi, hpsize, hcontrol, hhstctlh, State.hstctllWritten]

/-- R315: INTPEND. -/
theorem State.writeRegister_intpend (run : RunCall) (hwf : s.cfg.wf)
    (hi : bankIndex s.cfg a = s.cfg.ioIndex.intpend) :
    s.writeRegister run a v = .next (s.setIo s.cfg.ioIndex.intpend
      (intpendAfterWrite s.cfg (s.ioAt s.cfg.ioIndex.intpend) v)) := by
  have hpsize : s.cfg.ioIndex.intpend ≠ s.cfg.ioIndex.psize := Params.index_ne hwf 18 21 (by decide)
  have hcontrol : s.cfg.ioIndex.intpend ≠ s.cfg.ioIndex.control := Params.index_ne hwf 18 11 (by decide)
  have hhstctlh : s.cfg.ioIndex.intpend ≠ s.cfg.ioIndex.hstctlh := Params.index_ne hwf 18 16 (by decide)
  have hhstctll : s.cfg.ioIndex.intpend ≠ s.cfg.ioIndex.hstctll := Params.index_ne hwf 18 15 (by decide)
  simp [State.writeRegister, State.writeRegisterWith, hi, hpsize, hcontrol, hhstctlh, hhstctll, State.setIo_setIo]

/-- Settles O41: the plain store, and the store of HSTCTLH by whether the halt bit is written inside a run. -/
theorem registerWrite : Obligations.RegisterWrite := by
  intro s run a v
  refine ⟨fun hpsize hcontrol hhstctlh hhstctll hintpend => ?_, fun hwf hi => ?_⟩
  · exact ⟨State.writeRegister_raw run hpsize hcontrol hhstctlh hhstctll hintpend, fun j => s.ioAt_setIo _ j v⟩
  · rw [State.writeRegister_hstctlh run hwf hi, State.hstctlhWritten_eq]
    rfl

theorem clearable_getLsbD (p : Params) {j : Nat} (hj : j < 16) :
    (clearable p).getLsbD j = decide (j = p.bitHi.val ∨ j = p.bitDi.val ∨ j = p.bitWv.val) := by
  simp only [clearable, BitVec.getLsbD_or, bitMask16_getLsbD _ _ hj, Bool.decide_or, Bool.or_assoc]

/-- R315, bit by bit. -/
theorem intpendAfterWrite_getLsbD (p : Params) (old v : Word16) {j : Nat} (hj : j < 16) :
    (intpendAfterWrite p old v).getLsbD j =
      if j = p.bitHi.val ∨ j = p.bitDi.val ∨ j = p.bitWv.val then old.getLsbD j && v.getLsbD j
      else old.getLsbD j := by
  simp only [intpendAfterWrite, BitVec.getLsbD_and, BitVec.getLsbD_or, BitVec.getLsbD_not, clearable_getLsbD p hj, hj]
  split <;> simp_all

/-- Settles O43: the value that the write leaves, bit by bit. -/
theorem intpendWrite : Obligations.IntpendWrite := fun _ run _ v hwf hi =>
  ⟨_, State.writeRegister_intpend run hwf hi, fun _ => intpendAfterWrite_getLsbD _ _ v⟩

/-- R46: the legal PSIZE values are the powers of 2 from 1 to 32. -/
theorem pixelshiftOf_eq_some {k : Fin 6} : pixelshiftOf v = some k ↔ v = 1#16 <<< k.val := by
  constructor
  · intro h
    apply BitVec.eq_of_toNat_eq
    unfold pixelshiftOf at h
    split at h <;> cases h <;> assumption
  · have hlegal : ∀ k : Fin 6, pixelshiftOf (1#16 <<< k.val) = some k := by decide
    rintro rfl
    exact hlegal k

theorem State.recomputePixelshift_of_legal {k : Fin 6} (h : pixelshiftOf (s.ioAt s.cfg.ioIndex.psize) = some k) :
    s.recomputePixelshift = s.setPixelshift k := by
  simp only [State.recomputePixelshift, h]

/-- R46: for an illegal PSIZE the cache is drawn (log 9). -/
theorem State.recomputePixelshift_of_illegal (h : pixelshiftOf (s.ioAt s.cfg.ioIndex.psize) = none) :
    s.recomputePixelshift = (s.setPixelshift (Config.pixelshiftDraw s.draws)).tick := by
  simp only [State.recomputePixelshift, h]

/-- Settles O44: each cache is computed from the value just stored; for PSIZE by whether it is legal. -/
theorem cacheWrites : Obligations.CacheWrites := by
  intro s run a v hwf
  refine ⟨fun hi => ?control, fun hi => ⟨fun k hv => ?legal, fun hv => ?illegal⟩⟩
  case control =>
    rw [State.writeRegister_control run hwf hi, State.recomputeRopSel, State.setIo_cfg, State.ioAt_setIo_same]
    rfl
  case legal =>
    have hk : pixelshiftOf ((s.setIo s.cfg.ioIndex.psize v).ioAt s.cfg.ioIndex.psize) = some k := by
      rw [State.ioAt_setIo_same, pixelshiftOf_eq_some.2 hv]
    rw [State.writeRegister_psize run hi, State.recomputePixelshift_of_legal hk]
    rfl
  case illegal =>
    have hnone : pixelshiftOf ((s.setIo s.cfg.ioIndex.psize v).ioAt s.cfg.ioIndex.psize) = none := by
      rw [State.ioAt_setIo_same]
      exact Option.eq_none_iff_forall_ne_some.2 fun k hk => hv k (pixelshiftOf_eq_some.1 hk)
    exact ⟨_, by rw [State.writeRegister_psize run hi, State.recomputePixelshift_of_illegal hnone]; rfl⟩

/-- R314: a rising INTIN makes the host interrupt pending. -/
theorem State.intinWritten_of_rise {old : Word16} (hv : s.ioAt s.cfg.ioIndex.hstctll = v)
    (h : rises old v s.cfg.hstIntinBit = true) : s.intinWritten old = s.setPending s.cfg.bitHi true := by
  rw [State.intinWritten, hv, if_pos h]

/-- R314: an INTIN that does not rise has no effect. -/
theorem State.intinWritten_of_noRise {old : Word16} (hv : s.ioAt s.cfg.ioIndex.hstctll = v)
    (h : rises old v s.cfg.hstIntinBit = false) : s.intinWritten old = s := by
  rw [State.intinWritten, hv, h, if_neg Bool.false_ne_true]

/-- R314: an HSTCTLL write whose INTOUT does not rise. -/
theorem State.writeRegister_hstctll_quiet (run : RunCall) (hwf : s.cfg.wf)
    (hi : bankIndex s.cfg a = s.cfg.ioIndex.hstctll)
    (hout : rises (s.ioAt s.cfg.ioIndex.hstctll) v s.cfg.hstIntoutBit = false) :
    s.writeRegister run a v =
      .next ((s.setIo s.cfg.ioIndex.hstctll v).intinWritten (s.ioAt s.cfg.ioIndex.hstctll)) := by
  rw [State.writeRegister_hstctll run hwf hi, hout, if_neg Bool.false_ne_true, andThen_next]

/-- R314: an HSTCTLL write whose INTOUT rises, with no callback to call. -/
theorem State.writeRegister_hstctll_signal (run : RunCall) (hwf : s.cfg.wf)
    (hi : bankIndex s.cfg a = s.cfg.ioIndex.hstctll)
    (hout : rises (s.ioAt s.cfg.ioIndex.hstctll) v s.cfg.hstIntoutBit = true) (hcb : s.intoutCb = none) :
    s.writeRegister run a v =
      .next (((s.setIo s.cfg.ioIndex.hstctll v).emit .intOut).intinWritten (s.ioAt s.cfg.ioIndex.hstctll)) := by
  rw [State.writeRegister_hstctll run hwf hi, if_pos hout]
  simp only [State.callIntout, State.emit_intoutCb, State.setIo_intoutCb, hcb, andThen_next]

/-- R207, R314: an HSTCTLL write whose INTOUT rises, with a callback. -/
theorem State.writeRegister_hstctll_call (run : RunCall) (hwf : s.cfg.wf)
    (hi : bankIndex s.cfg a = s.cfg.ioIndex.hstctll)
    (hout : rises (s.ioAt s.cfg.ioIndex.hstctll) v s.cfg.hstIntoutBit = true) {cb : Nat}
    (hcb : s.intoutCb = some cb) :
    s.writeRegister run a v = andThen (callIntoutCb run cb ((s.setIo s.cfg.ioIndex.hstctll v).emit .intOut))
      (fun w => .next (w.intinWritten (s.ioAt s.cfg.ioIndex.hstctll))) := by
  rw [State.writeRegister_hstctll run hwf hi, if_pos hout]
  simp only [State.callIntout, State.emit_intoutCb, State.setIo_intoutCb, hcb]

/-- Settles O42: INTOUT by whether it rises and a callback is there, then INTIN by whether it rises in what the register
then holds. -/
theorem hstctllWrite : Obligations.HstctllWrite := by
  intro s run a v hwf hi
  have hstored := s.ioAt_setIo_same s.cfg.ioIndex.hstctll v
  refine ⟨fun hout hin => ?_, fun hout hin => ?_, fun hout hcb hin => ?_, fun hout hcb hin => ?_,
    fun _ hout hcb => State.writeRegister_hstctll_call run hwf hi hout hcb⟩
  · rw [State.writeRegister_hstctll_quiet run hwf hi hout]
    exact congrArg _ (State.intinWritten_of_noRise hstored hin)
  · rw [State.writeRegister_hstctll_quiet run hwf hi hout]
    exact congrArg _ (State.intinWritten_of_rise hstored hin)
  · rw [State.writeRegister_hstctll_signal run hwf hi hout hcb]
    exact congrArg _ (State.intinWritten_of_noRise hstored hin)
  · rw [State.writeRegister_hstctll_signal run hwf hi hout hcb]
    exact congrArg _ (State.intinWritten_of_rise hstored hin)

end Sys2Proof.Machine
end

section
/-! The timer: arming it, a check, and the automatic checks of each policy (spec/60_exceptions.md R320 to R323). -/

namespace Sys2Proof.Machine

variable {s : State} {e : Int}

/-- R321: the state in which a firing timer calls its callback or faults. -/
abbrev State.timerFired (s : State) : State :=
  { s with timerActive := false, timerCyc := 0, events := s.events ++ [.timerFired] }

/-- R320. -/
theorem State.timerArm_eq (s : State) (d : Int) : s.timerArm d = { s with
    timerActive := true, timerCyc := d, timerStamp := s.reported,
    events := if s.timerActive then s.events ++ [.timerRearm s.timerCyc d] else s.events } := by
  unfold State.timerArm
  split <;> rfl

/-- R321: an idle timer. -/
theorem State.checkTimer_of_idle (run : RunCall) (hidle : s.timerActive = false) : s.checkTimer run e = .next s := by
  simp [State.checkTimer, State.checkTimerWith, hidle]

/-- R321: an armed timer that the check leaves above zero. -/
theorem State.checkTimer_of_pos (run : RunCall) (hactive : s.timerActive = true) (hpos : 0 < s.timerCyc - e) :
    s.checkTimer run e = .next { s with timerCyc := s.timerCyc - e } := by
  rw [State.checkTimer, State.checkTimerWith, if_pos hactive]
  simp only [if_neg (Int.not_le.2 hpos), State.setTimer, ← hactive]

/-- R321: an armed timer that the check takes to zero or below fires. -/
theorem State.checkTimer_of_nonpos (run : RunCall) (hactive : s.timerActive = true) (hle : s.timerCyc - e ≤ 0) :
    s.checkTimer run e = (s.setTimer true (s.timerCyc - e)).fireTimer (callTimerCb run) := by
  rw [State.checkTimer, State.checkTimerWith, if_pos hactive]
  exact if_pos hle

/-- R321: with no callback, firing is the fault. -/
theorem State.fireTimer_none (call : Nat → State → Result State) (hcb : s.timerCb = none) :
    s.fireTimer call = .fault (.unwiredPeripheral s.timerFired) := by
  simp only [State.fireTimer, State.emit_timerCb, State.setTimer_timerCb, hcb]
  rfl

/-- R206, R321: with a callback, firing is its run. -/
theorem State.fireTimer_some (call : Nat → State → Result State) {cb : Nat} (hcb : s.timerCb = some cb) :
    s.fireTimer call = call cb s.timerFired := by
  simp only [State.fireTimer, State.emit_timerCb, State.setTimer_timerCb, hcb]
  rfl

/-- Settles O46: the check by whether the timer is armed, what it leaves, and the callback. -/
theorem timerArmAndCheck : Obligations.TimerArmAndCheck := by
  refine ⟨State.timerArm_eq, fun s run e => ⟨State.checkTimer_of_idle run, State.checkTimer_of_pos run,
    fun hactive hle hcb => ?_, fun cb hactive hle hcb => ?_⟩⟩
  · rw [State.checkTimer_of_nonpos run hactive hle]
    exact State.fireTimer_none _ hcb
  · rw [State.checkTimer_of_nonpos run hactive hle]
    exact State.fireTimer_some _ hcb

/-- R323: the cycles since the last check. -/
theorem State.timerAutoCheck_sinceLastCheck (run : RunCall) (point : CheckPoint) (budget : Int)
    (h : s.cfg.timerPolicy = .sinceLastCheck) :
    s.timerAutoCheck run point budget = (s.setStamp s.reported).checkTimer run ((s.reported : Int) - s.timerStamp) := by
  simp only [State.timerAutoCheck, State.timerAutoCheckWith, h, State.checkTimer]

/-- R323: the whole budget, at the entry of a run. -/
theorem State.timerAutoCheck_budget_entry (run : RunCall) (budget : Int) (h : s.cfg.timerPolicy = .budget) :
    s.timerAutoCheck run .entry budget = s.checkTimer run budget := by
  simp only [State.timerAutoCheck, State.timerAutoCheckWith, h, State.checkTimer]

/-- R323: nothing, at a scanline. -/
theorem State.timerAutoCheck_budget_scanline (run : RunCall) (budget : Int) (h : s.cfg.timerPolicy = .budget) :
    s.timerAutoCheck run .scanline budget = s.checkTimer run 0 := by
  simp only [State.timerAutoCheck, State.timerAutoCheckWith, h, State.checkTimer]

/-- Settles O47: one equation for each policy and point. -/
theorem timerAutoCheck : Obligations.TimerAutoCheck := fun _ run budget =>
  ⟨fun point => State.timerAutoCheck_sinceLastCheck run point budget, State.timerAutoCheck_budget_entry run budget,
    State.timerAutoCheck_budget_scanline run budget⟩

end Sys2Proof.Machine
end

section
/-! The scanline step: the timer check, then the line from the state it leaves (spec/60_exceptions.md R322, R327 to
R334). -/

namespace Sys2Proof.Machine

variable {s t : State} {run : RunCall} {line : Int} {cb : Option Nat}

/-- R322, R323: an idle timer passes the check of a scanline, which moves at most the stamp. -/
theorem State.timerAutoCheck_scanline_of_idle (run : RunCall) (hidle : s.timerActive = false) :
    s.timerAutoCheck run .scanline 0 = .next { s with
      timerStamp := match s.cfg.timerPolicy with
        | .sinceLastCheck => s.reported
        | .budget => s.timerStamp } := by
  cases hpolicy : s.cfg.timerPolicy with
  | sinceLastCheck =>
    rw [State.timerAutoCheck_sinceLastCheck run _ _ hpolicy]
    exact State.checkTimer_of_idle run hidle
  | budget => rw [State.timerAutoCheck_budget_scanline run _ hpolicy, State.checkTimer_of_idle run hidle]

/-- R327: a negative line is refused with nothing done. -/
theorem State.generateScanline_of_neg (run : RunCall) (cb : Option Nat) (hline : line < 0) :
    s.generateScanline run line cb = .refused (.negativeLine s) := by
  rw [State.generateScanline, State.generateScanlineWith, if_pos hline]

/-- R327, R334: the end of a scanline step, after the render call. -/
abbrev State.endLine (s : State) (line : Int) : Nat × State :=
  ((s.advanceDisplayAddress line).nextLine line, s.advanceDisplayAddress line)

/-- R322, R327: any other line is begun in the state that the timer check leaves. -/
theorem State.generateScanline_of_nonneg (run : RunCall) (cb : Option Nat) (hline : 0 ≤ line) :
    s.generateScanline run line cb = andThen (s.timerAutoCheck run .scanline 0) fun t =>
      andThen ((t.beginLine line).renderLine (cb.map fun c => callRenderCb run c line) line) fun u =>
      .next (u.endLine line) := by
  rw [State.generateScanline, State.generateScanlineWith, if_neg (Int.not_lt.2 hline)]
  rfl

/-- R327: the line as it goes on from a timer check that answers. -/
theorem State.generateScanline_of_check (cb : Option Nat) (hline : 0 ≤ line)
    (ht : s.timerAutoCheck run .scanline 0 = .next t) :
    s.generateScanline run line cb =
      andThen ((t.beginLine line).renderLine (cb.map fun c => callRenderCb run c line) line)
        fun u => .next (u.endLine line) := by
  rw [State.generateScanline_of_nonneg run cb hline, ht, andThen_next]

/-- R328, R329, R332: what precedes the render call writes the bank alone. -/
theorem State.beginLine_frame (s : State) (line : Int) : s.beginLine line = { s with io := (s.beginLine line).io } := by
  unfold State.beginLine State.reloadDisplayAddress State.raiseDisplayInterrupt
  split <;> split <;> rfl

@[simp] theorem State.beginLine_cfg (s : State) (line : Int) : (s.beginLine line).cfg = s.cfg := by
  rw [State.beginLine_frame]

/-- R328, R329, R332: no other register of the bank is written. -/
theorem State.beginLine_ioAt_other (hwf : s.cfg.wf) (line : Int) {i : Fin 64} (hvcount : i ≠ s.cfg.ioIndex.vcount)
    (hintpend : i ≠ s.cfg.ioIndex.intpend) (hdpyadr : i ≠ s.cfg.ioIndex.dpyadr) :
    (s.beginLine line).ioAt i = s.ioAt i := by
  rw [State.beginLine_ioAt hwf, if_neg hdpyadr, if_neg hintpend, if_neg hvcount]

/-- A register that the part before the render call does not write, by its place in Table IO's order. -/
theorem State.beginLine_ioAt_named (hwf : s.cfg.wf) (line : Int) (k : Fin 27) (hk : k ≠ 24 ∧ k ≠ 18 ∧ k ≠ 25) :
    (s.beginLine line).ioAt (s.cfg.ioIndex.all.get k) = s.ioAt (s.cfg.ioIndex.all.get k) :=
  State.beginLine_ioAt_other hwf line (Params.index_ne hwf k 24 hk.1) (Params.index_ne hwf k 18 hk.2.1)
    (Params.index_ne hwf k 25 hk.2.2)

/-- R332: DPYADR as the render call finds it. -/
theorem State.beginLine_dpyadr (hwf : s.cfg.wf) (line : Int) :
    (s.beginLine line).ioAt s.cfg.ioIndex.dpyadr = if line = (s.ioAt s.cfg.ioIndex.vsblnk).toNat then
      s.ioAt s.cfg.ioIndex.dpystrt else s.ioAt s.cfg.ioIndex.dpyadr := by
  rw [State.beginLine_ioAt hwf, if_pos rfl]
  rfl

/-- R329: INTPEND as the render call finds it. -/
theorem State.beginLine_intpend (hwf : s.cfg.wf) (line : Int) :
    (s.beginLine line).ioAt s.cfg.ioIndex.intpend =
      if (s.ioAt s.cfg.ioIndex.dpyctl).getLsbD s.cfg.dpyEnvBit.val = true
        ∧ line = (s.ioAt s.cfg.ioIndex.dpyint).toNat then
        setBit16 (s.ioAt s.cfg.ioIndex.intpend) s.cfg.bitDi true
      else s.ioAt s.cfg.ioIndex.intpend := by
  have hne : s.cfg.ioIndex.intpend ≠ s.cfg.ioIndex.dpyadr := Params.index_ne hwf 18 25 (by decide)
  rw [State.beginLine_ioAt hwf, if_neg hne, if_pos rfl]
  rfl

/-- R328: VCOUNT as the render call finds it. -/
theorem State.beginLine_vcount (hwf : s.cfg.wf) (line : Int) :
    (s.beginLine line).ioAt s.cfg.ioIndex.vcount = BitVec.ofInt 16 line := by
  have hdpyadr : s.cfg.ioIndex.vcount ≠ s.cfg.ioIndex.dpyadr := Params.index_ne hwf 24 25 (by decide)
  have hintpend : s.cfg.ioIndex.vcount ≠ s.cfg.ioIndex.intpend := Params.index_ne hwf 24 18 (by decide)
  rw [State.beginLine_ioAt hwf, if_neg hdpyadr, if_neg hintpend, if_pos rfl]

/-- R331: the default advance window. -/
theorem State.inAdvanceWin_standard (h : s.cfg.advanceWin = .standard) (line : Int) : s.inAdvanceWin line = true ↔
    (s.ioAt s.cfg.ioIndex.veblnk).toNat ≤ line ∧ line < (s.ioAt s.cfg.ioIndex.vsblnk).toNat - 1 := by
  simp only [State.inAdvanceWin, h]
  exact decide_eq_true_iff

/-- R333: the advance in the default window. -/
theorem State.advanceDisplayAddress_standard (h : s.cfg.advanceWin = .standard) (line : Int) :
    s.advanceDisplayAddress line =
      if (s.ioAt s.cfg.ioIndex.veblnk).toNat ≤ line ∧ line < (s.ioAt s.cfg.ioIndex.vsblnk).toNat - 1 then
        s.setIo s.cfg.ioIndex.dpyadr (Config.dpyadrStep s.io)
      else s := by
  simp only [State.advanceDisplayAddress, State.inAdvanceWin_standard h]

/-- R333: the advance writes DPYADR alone. -/
theorem State.advanceDisplayAddress_vtotal (hwf : s.cfg.wf) (line : Int) :
    (s.advanceDisplayAddress line).ioLine (s.advanceDisplayAddress line).cfg.ioIndex.vtotal
      = (s.ioAt s.cfg.ioIndex.vtotal).toNat := by
  have hne : s.cfg.ioIndex.vtotal ≠ s.cfg.ioIndex.dpyadr := Params.index_ne hwf 7 25 (by decide)
  unfold State.advanceDisplayAddress State.ioLine
  split
  · rw [State.setIo_cfg, State.ioAt_setIo, if_neg hne]
  · rfl

/-- R334: the next line as an integer. -/
theorem State.nextLine_eq (hline : 0 ≤ line) : (s.nextLine line : Int) =
    if s.ioLine s.cfg.ioIndex.vtotal ≤ line + 1 then 0 else line + 1 := by
  unfold State.nextLine
  split
  · rfl
  · exact Int.toNat_of_nonneg (by omega)

/-- R331: the edges of the windows are not written before the render call. -/
theorem State.beginLine_window (hwf : s.cfg.wf) (line : Int) :
    (s.beginLine line).ioAt s.cfg.ioIndex.veblnk = s.ioAt s.cfg.ioIndex.veblnk
    ∧ (s.beginLine line).ioAt s.cfg.ioIndex.vsblnk = s.ioAt s.cfg.ioIndex.vsblnk :=
  ⟨State.beginLine_ioAt_named hwf line 5 (by decide), State.beginLine_ioAt_named hwf line 6 (by decide)⟩

/-- R333: where no render call is made, the advance is by the window of the state that the timer check leaves. -/
theorem State.endLine_beginLine_state (hwf : s.cfg.wf) (hwin : s.cfg.advanceWin = .standard) (line : Int) :
    ((s.beginLine line).endLine line).2 =
      if (s.ioAt s.cfg.ioIndex.veblnk).toNat ≤ line ∧ line < (s.ioAt s.cfg.ioIndex.vsblnk).toNat - 1 then
        (s.beginLine line).setIo s.cfg.ioIndex.dpyadr (Config.dpyadrStep (s.beginLine line).io)
      else s.beginLine line := by
  obtain ⟨hveblnk, hvsblnk⟩ := State.beginLine_window hwf line
  have hadvance := State.advanceDisplayAddress_standard (s := s.beginLine line) (by rwa [State.beginLine_cfg]) line
  rwa [State.beginLine_cfg, hveblnk, hvsblnk] at hadvance

/-- R334: where no render call is made, the next line is by the VTOTAL of the state that the timer check leaves. -/
theorem State.endLine_beginLine_next (hwf : s.cfg.wf) (hline : 0 ≤ line) :
    (((s.beginLine line).endLine line).1 : Int) =
      if ((s.ioAt s.cfg.ioIndex.vtotal).toNat : Int) ≤ line + 1 then 0 else line + 1 := by
  have hvtotal : (s.beginLine line).ioAt s.cfg.ioIndex.vtotal = s.ioAt s.cfg.ioIndex.vtotal :=
    State.beginLine_ioAt_named hwf line 7 (by decide)
  have hlast := State.advanceDisplayAddress_vtotal (s := s.beginLine line) (by rwa [State.beginLine_cfg]) line
  rw [State.beginLine_cfg s, hvtotal] at hlast
  rw [State.nextLine_eq hline, hlast]

/-- R330: no call without a callback. -/
theorem State.renderLine_none (s : State) (line : Int) : s.renderLine none line = .next s := rfl

/-- Settles O48: the timer check ends the step or leaves `t`, whose line begins, advances and ends. -/
theorem scanlineStep : Obligations.ScanlineStep := by
  intro s run line
  refine ⟨fun cb => State.generateScanline_of_neg run cb, fun cb r hline hr => ?_, fun cb r hline hr => ?_,
    State.timerAutoCheck_scanline_of_idle run, fun t hline ht hwf hwin => ?_⟩
  · rw [State.generateScanline_of_nonneg run cb hline, hr, andThen_fault]
  · rw [State.generateScanline_of_nonneg run cb hline, hr, andThen_refused]
  · refine ⟨t.beginLine line, ((t.beginLine line).endLine line).1, t.beginLine_frame line,
      State.beginLine_vcount hwf line, State.beginLine_intpend hwf line, State.beginLine_dpyadr hwf line,
      fun i => State.beginLine_ioAt_other hwf line, State.endLine_beginLine_next hwf hline, ?_⟩
    rw [State.generateScanline_of_check none hline ht, Option.map_none, State.renderLine_none, andThen_next,
      ← State.endLine_beginLine_state hwf hwin line]

/-- R331: the default render window. -/
theorem State.inRenderWin_standard (h : s.cfg.renderWin = .standard) (line : Int) : s.inRenderWin line = true ↔
    (s.ioAt s.cfg.ioIndex.veblnk).toNat ≤ line ∧ line < (s.ioAt s.cfg.ioIndex.vsblnk).toNat := by
  simp only [State.inRenderWin, h]
  exact decide_eq_true_iff

/-- R331: the default render window, from the state that the timer check leaves. -/
theorem State.inRenderWin_beginLine (hwf : s.cfg.wf) (hwin : s.cfg.renderWin = .standard) (line : Int) :
    (s.beginLine line).inRenderWin line = true ↔
      (s.ioAt s.cfg.ioIndex.veblnk).toNat ≤ line ∧ line < (s.ioAt s.cfg.ioIndex.vsblnk).toNat := by
  obtain ⟨hveblnk, hvsblnk⟩ := State.beginLine_window hwf line
  have hwindow := State.inRenderWin_standard (s := s.beginLine line) (by rwa [State.beginLine_cfg]) line
  rwa [State.beginLine_cfg, hveblnk, hvsblnk] at hwindow

/-- R330: the call for a line of the window. -/
theorem State.renderLine_inside {call : DisplayParams → State → Result State} (h : s.inRenderWin line = true) :
    s.renderLine (some call) line = call s.displayParams (s.emit (.render line s.displayParams)) := if_pos h

/-- R331: no call for any other line. -/
theorem State.renderLine_outside {call : DisplayParams → State → Result State} (h : ¬s.inRenderWin line = true) :
    s.renderLine (some call) line = .next s := if_neg h

/-- R330: the arguments of the render call, from the state that the timer check leaves. -/
theorem State.displayParams_beginLine (hwf : s.cfg.wf) (line : Int) : (s.beginLine line).displayParams = {
    dpyadr := if line = (s.ioAt s.cfg.ioIndex.vsblnk).toNat then s.ioAt s.cfg.ioIndex.dpystrt
      else s.ioAt s.cfg.ioIndex.dpyadr
    heblnk := s.ioAt s.cfg.ioIndex.heblnk
    hsblnk := s.ioAt s.cfg.ioIndex.hsblnk
    htotal := s.ioAt s.cfg.ioIndex.htotal } := by
  have hheblnk : (s.beginLine line).ioAt s.cfg.ioIndex.heblnk = s.ioAt s.cfg.ioIndex.heblnk :=
    State.beginLine_ioAt_named hwf line 1 (by decide)
  have hhsblnk : (s.beginLine line).ioAt s.cfg.ioIndex.hsblnk = s.ioAt s.cfg.ioIndex.hsblnk :=
    State.beginLine_ioAt_named hwf line 2 (by decide)
  have hhtotal : (s.beginLine line).ioAt s.cfg.ioIndex.htotal = s.ioAt s.cfg.ioIndex.htotal :=
    State.beginLine_ioAt_named hwf line 3 (by decide)
  rw [State.displayParams, State.beginLine_cfg, State.beginLine_dpyadr hwf, hheblnk, hhsblnk, hhtotal]

/-- Settles O49: the window reads registers that the step has not written, and decides between the call and none. -/
theorem renderCall : Obligations.RenderCall := by
  intro s t run line cb hline ht hwf hwin
  have hwindow := State.inRenderWin_beginLine hwf hwin line
  refine ⟨fun hin => ?_, fun hout => ?_⟩
  · rw [State.generateScanline_of_check (some cb) hline ht, Option.map_some, State.renderLine_inside (hwindow.2 hin),
      State.displayParams_beginLine hwf]
    rfl
  · rw [State.generateScanline_of_check (some cb) hline ht, State.generateScanline_of_check none hline ht,
      Option.map_some, State.renderLine_outside (mt hwindow.1 hout), Option.map_none, State.renderLine_none]

end Sys2Proof.Machine
end

section
/-! The entry sequence on any pages (spec/60_exceptions.md R271, R280, R281, R285, 20_memory.md R110). -/

namespace Sys2Proof.Machine

variable {s t : State} {source : IntSource} {vec : Addr}

/-- R280: an entry that answers is two pushes that answer and the end of the sequence. -/
theorem State.take_eq_next : s.take source vec = .next t ↔
    ∃ u v, s.push32 s.pc = .next u ∧ u.push32 u.st = .next v ∧ v.enterVector source vec = t := by
  simp only [State.take, andThen_eq_next, Host.Outcome.next.injEq]
  exact ⟨fun ⟨u, hu, v, hv, ht⟩ => ⟨u, v, hu, hv, ht⟩, fun ⟨u, v, hu, hv, ht⟩ => ⟨u, hu, v, hv, ht⟩⟩

/-- R281. -/
theorem State.enterVector_st (s : State) (source : IntSource) (vec : Addr) :
    (s.enterVector source vec).st = s.cfg.stInit := by
  rw [State.enterVector_eq]
  exact (State.memRead32_onlyBus _ vec).st

/-- The read of the vector leaves the register file. -/
theorem State.enterVector_x (s : State) (source : IntSource) (vec : Addr) : (s.enterVector source vec).x = s.x := by
  rw [State.enterVector_eq]
  exact (State.memRead32_onlyBus _ vec).x

/-- The read of the vector leaves the shift-register buffer. -/
theorem State.enterVector_shiftreg (s : State) (source : IntSource) (vec : Addr) :
    (s.enterVector source vec).shiftreg = s.shiftreg := by
  rw [State.enterVector_eq]
  exact (State.memRead32_onlyBus _ vec).shiftreg

/-- Settles O35: `st` is written after the pushes, and nothing in the sequence writes the parameters. -/
theorem entryResetsStatus : Obligations.EntryResetsStatus := by
  intro s t source vec ht
  have hcfg : t.cfg = s.cfg := closed_cfg.take s source vec t ht
  obtain ⟨u, v, hu, hv, rfl⟩ := State.take_eq_next.1 ht
  have hst : (v.enterVector source vec).st = s.cfg.stInit := by
    rw [State.enterVector_st, closed_cfg.push32 u _ v hv, closed_cfg.push32 s _ u hu]
  refine ⟨hst, fun ⟨hie, _⟩ => ?_⟩
  rw [State.ie, hst, hcfg]
  exact hie

/-- R280: with no callback to run, a push moves SP down by 32 and keeps every other register and the shift-register
buffer. -/
theorem State.push32_registers {v : Word32} (hcb : s.intoutCb = none) (h : s.push32 v = .next t) :
    t.sp = s.sp - 32#32 ∧ (∀ i, i ≠ slotSp → t.xAt i = s.xAt i) ∧ t.shiftreg = s.shiftreg := by
  obtain ⟨u, hu, honly⟩ := s.push32_completes v hcb
  obtain rfl : u = t := Host.Outcome.next.inj (hu.symm.trans h)
  have hx : ∀ i, u.xAt i = (s.setSp (s.sp - 32#32)).xAt i := State.xAt_congr honly.x
  exact ⟨(hx slotSp).trans (s.sp_setSp _), fun i hi => (hx i).trans (s.xAt_setSp _ i hi), honly.shiftreg⟩

/-- Settles O36: both pushes complete, and the vector read leaves the registers they leave. -/
theorem entryCompletes : Obligations.EntryCompletes := by
  intro s source vec hcb
  obtain ⟨u, hu, -⟩ := s.push32_completes s.pc hcb
  have hucb : u.intoutCb = none := (State.push32_onlyHandler hcb hu).intoutCb.trans hcb
  obtain ⟨v, hv, -⟩ := u.push32_completes u.st hucb
  have ht : s.take source vec = .next (v.enterVector source vec) := State.take_eq_next.2 ⟨u, v, hu, hv, rfl⟩
  obtain ⟨husp, hux, hushift⟩ := State.push32_registers hcb hu
  obtain ⟨hvsp, hvx, hvshift⟩ := State.push32_registers hucb hv
  have hx := State.xAt_congr (v.enterVector_x source vec)
  refine ⟨_, ht, ?_, fun i hi => ?_, ?_, State.take_onlyHandler hcb ht⟩
  · calc (v.enterVector source vec).sp = u.sp - 32#32 := (hx slotSp).trans hvsp
      _ = s.sp - 64#32 := by rw [husp, BitVec.sub_sub]; rfl
  · rw [hx, hvx i hi, hux i hi]
  · rw [State.enterVector_shiftreg, hvshift, hushift]

end Sys2Proof.Machine
end

section
/-! Which interrupt is taken (spec/60_exceptions.md R272, R275 to R277, R279, R282). -/

namespace Sys2Proof.Machine

variable {s : State} {source : IntSource}

/-- R275: a requested NMI goes before every maskable source. -/
theorem State.serviceInterrupts_of_nmi (h : s.nmiPending = true) : s.serviceInterrupts = s.takeNmi := if_pos h

/-- Settles O37: the NMI is taken in the state with its request cleared. -/
theorem nmiTakenFirst : Obligations.NmiTakenFirst := by
  intro s hnmi
  refine ⟨_, State.serviceInterrupts_of_nmi hnmi, fun j hj => ?_⟩
  rw [setBit16_getLsbD _ _ _ _ hj]
  by_cases h : j = s.cfg.hstNmiBit.val <;> simp [h]

/-- Settles O39: with IE clear, or no bit in the pending word, no maskable source is pending. -/
theorem nothingTakenWhileMasked : Obligations.NothingTakenWhileMasked := by
  intro s hnmi hmask
  refine State.serviceInterrupts_of_quiet hnmi ?_
  rcases hmask with hie | hwants
  · rw [State.maskablePending, hie, Bool.false_and]
  · simp [State.maskablePending, s.irq_eq_zero hwants]

/-- R276: a maskable source that is pending and enabled is in the pending word. -/
theorem State.irq_ne_zero (hmem : source ∈ maskableSources) (hwants : s.wants source = true) : s.irq ≠ 0#16 := by
  intro hzero
  have hbit := s.irq_sourceBit source hmem
  rw [hzero, hwants, BitVec.getLsbD_zero] at hbit
  cases hbit

/-- R277: the choice of the highest source, by which sources are pending and enabled. -/
theorem State.highest_irq (s : State) : highest s.cfg s.irq =
    if s.wants .hi then .hi else if s.wants .di then .di else if s.wants .wv then .wv
    else if s.wants .int1 then .int1 else .int2 := by
  have hbit := fun x hx => s.irq_sourceBit x hx
  have hhi : s.irq.getLsbD s.cfg.bitHi.val = s.wants .hi := hbit .hi (by decide)
  have hdi : s.irq.getLsbD s.cfg.bitDi.val = s.wants .di := hbit .di (by decide)
  have hwv : s.irq.getLsbD s.cfg.bitWv.val = s.wants .wv := hbit .wv (by decide)
  have hint1 : s.irq.getLsbD s.cfg.bitInt1.val = s.wants .int1 := hbit .int1 (by decide)
  rw [highest, hhi, hdi, hwv, hint1]

/-- R277: a source that is pending and enabled, with none above it, is the highest. -/
theorem State.highest_irq_of_wants (hmem : source ∈ maskableSources) (hwants : s.wants source = true)
    (habove : ∀ x ∈ maskableSources.takeWhile (fun x => decide (x ≠ source)), s.wants x = false) :
    highest s.cfg s.irq = source := by
  rw [State.highest_irq]
  cases source with
  | nmi => simp [maskableSources] at hmem
  | hi => rw [if_pos hwants]
  | di => simp [habove .hi (by decide), hwants]
  | wv => simp [habove .hi (by decide), habove .di (by decide), hwants]
  | int1 => simp [habove .hi (by decide), habove .di (by decide), habove .wv (by decide), hwants]
  | int2 =>
    simp [habove .hi (by decide), habove .di (by decide), habove .wv (by decide), habove .int1 (by decide)]

/-- R275: with no NMI and IE set, a pending and enabled source leads to the choice among the maskable ones. -/
theorem State.serviceInterrupts_of_wants (hnmi : s.nmiPending = false) (hie : s.ie = true)
    (hmem : source ∈ maskableSources) (hwants : s.wants source = true) : s.serviceInterrupts = s.takeMaskable := by
  have hpending : s.maskablePending = true := by
    simp [State.maskablePending, hie, State.irq_ne_zero hmem hwants]
  rw [State.serviceInterrupts, hnmi, if_neg Bool.false_ne_true, if_pos hpending]

/-- R282: the lines after a source is taken; at most one of the two is cleared. -/
theorem State.holdClear_eq (t : State) (source : IntSource) : (t.holdClear0 source).holdClear1 source =
    if source = .int1 ∧ t.line0 = .hold then (t.setPending t.cfg.bitInt1 false).setLine0 .clear
    else if source = .int2 ∧ t.line1 = .hold then (t.setPending t.cfg.bitInt2 false).setLine1 .clear
    else t := by
  cases source <;> simp [State.holdClear0, State.holdClear1]

/-- Each maskable source with its vector (R272). -/
theorem vectorOf_of_mem {p : Params} {vector : Addr}
    (h : (source, vector) ∈ [(.hi, p.vecHi), (.di, p.vecDi), (.wv, p.vecWv), (.int1, p.vecInt1),
      (.int2, p.vecInt2)]) :
    source ∈ maskableSources ∧ vectorOf p source = vector := by
  simp only [List.mem_cons, Prod.mk.injEq, List.not_mem_nil, or_false] at h
  rcases h with ⟨rfl, rfl⟩ | ⟨rfl, rfl⟩ | ⟨rfl, rfl⟩ | ⟨rfl, rfl⟩ | ⟨rfl, rfl⟩ <;> exact ⟨by decide, rfl⟩

/-- Settles O38: the source chosen is the given one, which its vector and its line follow. -/
theorem highestSourceTaken : Obligations.HighestSourceTaken := by
  intro s source vector _ hnmi hie hvector hwants habove
  obtain ⟨hmem, rfl⟩ := vectorOf_of_mem hvector
  rw [State.serviceInterrupts_of_wants hnmi hie hmem hwants, State.takeMaskable,
    State.highest_irq_of_wants hmem hwants habove]
  simp only [State.holdClear_eq]
  rfl

end Sys2Proof.Machine
end

section
/-! The entry sequence with the stack and the vector on direct pages (spec/60_exceptions.md R280, R283, R284). -/

namespace Sys2Proof.Machine

variable {s t : State} {a b : Addr} {p q : Nat × Nat}

/-- R100: the memory with the halves of a 32-bit value at two places, the one of the lower address at the first. -/
abbrev Memory.setLong (m : Memory) (ord : Word32Order) (p q : Nat × Nat) (v : Word32) : Memory :=
  (m.setWord p.1 p.2 (firstHalf ord v)).setWord q.1 q.2 (secondHalf ord v)

/-- Where a write goes depends on the table of the writes and the parameters alone. -/
theorem State.storePlace_congr (hw : t.mem.wmap = s.mem.wmap) (hc : t.cfg = s.cfg) (a : Addr) :
    t.storePlace a = s.storePlace a := by
  simp only [State.storePlace, Memory.writeEntry, hw, hc]

/-- R280: a push onto direct pages. -/
theorem State.push32_storePlace (v : Word32) (hp : s.storePlace (s.sp - 32#32) = some p)
    (hq : s.storePlace (alignDown (s.sp - 32#32) + 16#32) = some q) :
    s.push32 v = .next ((s.setSp (s.sp - 32#32)).setMem (s.mem.setLong s.cfg.word32Order p q v)) := by
  have hwrite := State.memWrite32_storePlace (s := s.setSp (s.sp - 32#32)) v hp hq
  unfold State.push32
  simp only [State.sp_setSp]
  exact hwrite

/-- The later of two writes of SP wins. -/
theorem State.setSp_setSp (s : State) (v w : Word32) : (s.setSp v).setSp w = s.setSp w := by
  simp [State.setSp, State.setX]

theorem State.setSp_setMem (s : State) (m : Memory) (v : Word32) : (s.setMem m).setSp v = (s.setSp v).setMem m := rfl

/-- R280: both pushes of an entry onto direct pages, `pc` above `st`. -/
theorem State.take_storePlace {p' q' : Nat × Nat} (source : IntSource) (vec : Addr)
    (hp : s.storePlace (s.sp - 32#32) = some p) (hp' : s.storePlace (alignDown (s.sp - 32#32) + 16#32) = some p')
    (hq : s.storePlace (s.sp - 64#32) = some q) (hq' : s.storePlace (alignDown (s.sp - 64#32) + 16#32) = some q') :
    s.take source vec = .next (((s.setSp (s.sp - 64#32)).setMem
      ((s.mem.setLong s.cfg.word32Order p p' s.pc).setLong s.cfg.word32Order q q' s.st)).enterVector source vec) := by
  have hfirst := State.push32_storePlace s.pc hp hp'
  generalize hu : (s.setSp (s.sp - 32#32)).setMem (s.mem.setLong s.cfg.word32Order p p' s.pc) = u at hfirst
  have hsp : u.sp - 32#32 = s.sp - 64#32 := by
    have : u.sp = s.sp - 32#32 := hu ▸ s.sp_setSp _
    rw [this, BitVec.sub_sub]
    rfl
  have hplace : ∀ a, u.storePlace a = s.storePlace a := State.storePlace_congr (by subst hu; simp) (by subst hu; rfl)
  have hsecond := State.push32_storePlace (s := u) u.st (by rwa [hsp, hplace]) (by rwa [hsp, hplace])
  refine State.take_eq_next.2 ⟨u, _, hfirst, hsecond, ?_⟩
  rw [hsp]
  subst hu
  rw [State.setSp_setMem, State.setSp_setSp]
  rfl

/-- R280, R284: the end of the entry sequence with the vector on direct pages. -/
theorem State.enterVector_of_peek {target : Addr} (source : IntSource) {vec : Addr} (h : s.peek32 vec = some target) :
    s.enterVector source vec = { s with
      st := s.cfg.stInit, pc := target, icounter := s.icounter - s.cfg.intLatency,
      events := s.events ++ [.interruptTaken source vec target] } := by
  rw [State.enterVector_eq, State.memRead32_of_peek (s.setSt s.cfg.stInit) vec target h]
  rfl

/-- Settles O33: the two pushes, then the vector as the pushes left it. -/
theorem entryOnMemory : Obligations.EntryOnMemory := by
  intro s source vec p p' q q' m target hp hp' hq hq' hm htarget
  have hpushed : m = (s.mem.setLong s.cfg.word32Order p p' s.pc).setLong s.cfg.word32Order q q' s.st := hm
  rw [State.take_storePlace source vec hp hp' hq hq', ← hpushed,
    State.enterVector_of_peek (s := (s.setSp (s.sp - 64#32)).setMem m) source htarget]
  rfl

/-- Pages are whole 8-byte blocks, so the place of a stored word has, modulo 8, the residue of its address; words of
different residues share no byte, even where two pages name one block (R96, R280). -/
theorem State.storePlace_mod (hc : s.cfg.pagesOk) (hm : s.mem.wf s.cfg) (hp : s.storePlace a = some p) :
    p.2 % 8 = a.toNat / 16 % 4 * 2 := by
  obtain ⟨hoffset, -⟩ := State.storePlace_bounds hc hm hp
  have hdvd : 8 ∣ s.cfg.pageBytes := Nat.dvd_of_mod_eq_zero hc.1
  have hmod := congrArg (· % 8) hoffset
  simp only [Nat.mod_mod_of_dvd _ hdvd] at hmod
  omega

/-- The place where a word of a direct page is read has, modulo 8, the residue of its address. -/
theorem State.readPlace_mod {buf off : Nat} (hc : s.cfg.pagesOk) (hm : s.mem.wf s.cfg)
    (h : s.mem.readEntry s.cfg (alignDown a) = .memory buf off) :
    (off + pageOffset s.cfg (alignDown a)) % 8 = a.toNat / 16 % 4 * 2 := by
  obtain ⟨hblock, -⟩ := hm.read_block h
  have hdvd : 8 ∣ s.cfg.pageBytes := Nat.dvd_of_mod_eq_zero hc.1
  have hoff : off % 8 = 0 := by rw [← Nat.mod_mod_of_dvd off hdvd, hblock]
  have hpage : pageOffset s.cfg (alignDown a) % 8 = a.toNat / 16 * 2 % 8 := by
    rw [pageOffset_alignDown, Nat.mod_mod_of_dvd _ hdvd]
  omega

/-- A stored word leaves every word of another residue. -/
theorem State.peek16_setWord_apart (w : Word16) (hc : s.cfg.pagesOk) (hm : s.mem.wf s.cfg)
    (hp : s.storePlace a = some p) (hab : a.toNat / 16 % 4 ≠ b.toNat / 16 % 4) :
    (s.setMem (s.mem.setWord p.1 p.2 w)).peek16 b = s.peek16 b := by
  have hstore := State.storePlace_mod hc hm hp
  simp only [State.peek16, State.setMem_mem, State.setMem_cfg, Memory.setWord_readEntry]
  cases hentry : s.mem.readEntry s.cfg (alignDown b) with
  | handler id => rfl
  | memory buf off =>
    have hread := State.readPlace_mod hc hm hentry
    simp only
    rw [Memory.wordAt_setWord_other]
    omega

/-- The residues of two words in a row. -/
theorem next_word_mod (a : Addr) : (alignDown a + 16#32).toNat / 16 % 4 = (a.toNat / 16 + 1) % 4 := by
  have := a.isLt
  rw [BitVec.toNat_add, alignDown_toNat]
  simp only [BitVec.toNat_ofNat]
  omega

/-- A stored 32-bit value leaves every word of a residue other than those of its halves. -/
theorem State.peek16_setLong_apart (v : Word32) (hc : s.cfg.pagesOk) (hm : s.mem.wf s.cfg)
    (hp : s.storePlace a = some p) (hq : s.storePlace (alignDown a + 16#32) = some q)
    (hfirst : a.toNat / 16 % 4 ≠ b.toNat / 16 % 4) (hsecond : (a.toNat / 16 + 1) % 4 ≠ b.toNat / 16 % 4) :
    (s.setMem (s.mem.setLong s.cfg.word32Order p q v)).peek16 b = s.peek16 b := by
  have hkept : (s.setMem (s.mem.setWord p.1 p.2 (firstHalf s.cfg.word32Order v))).storePlace (alignDown a + 16#32)
      = some q := (State.storePlace_congr (by simp) (by rfl) _).trans hq
  have hlast := State.peek16_setWord_apart (s := s.setMem (s.mem.setWord p.1 p.2 (firstHalf s.cfg.word32Order v)))
    (b := b) (secondHalf s.cfg.word32Order v) hc (s.mem.setWord_wf _ _ _ _ hm) hkept (by rwa [next_word_mod])
  exact hlast.trans (State.peek16_setWord_apart _ hc hm hp hfirst)

/-- R280, R287: the 32-bit value pushed below another one leaves it. -/
theorem State.peek32_setLong_below (v : Word32) (hc : s.cfg.pagesOk) (hm : s.mem.wf s.cfg)
    (hp : s.storePlace a = some p) (hq : s.storePlace (alignDown a + 16#32) = some q) :
    (s.setMem (s.mem.setLong s.cfg.word32Order p q v)).peek32 (a + 32#32) = s.peek32 (a + 32#32) := by
  have habove : (a + 32#32).toNat / 16 % 4 = (a.toNat / 16 + 2) % 4 := by
    have := a.isLt
    rw [BitVec.toNat_add]
    simp only [BitVec.toNat_ofNat]
    omega
  unfold State.peek32
  rw [State.peek16_alignDown, State.peek16_alignDown, State.setMem_cfg,
    State.peek16_setLong_apart v hc hm hp hq (by omega) (by omega),
    State.peek16_setLong_apart v hc hm hp hq (by rw [next_word_mod]; omega) (by rw [next_word_mod]; omega)]

/-- R97, R100: a 32-bit value stored where reads and writes reach the same memory is found there. -/
theorem State.peek32_setLong_same (v : Word32) (hc : s.cfg.pagesOk) (hm : s.mem.wf s.cfg) (h : s.ramLong a)
    (hp : s.storePlace a = some p) (hq : s.storePlace (alignDown a + 16#32) = some q) :
    (s.setMem (s.mem.setLong s.cfg.word32Order p q v)).peek32 a = some v := by
  obtain ⟨hfirst, hsecond⟩ := h
  obtain ⟨hpword, hqword⟩ := State.wordAt_setWord_halves hc hm hp hq (firstHalf s.cfg.word32Order v)
    (secondHalf s.cfg.word32Order v)
  rw [State.peek32_of_halves (State.peek16_setMem_of_ramWord hfirst hp (by simp))
      (State.peek16_setMem_of_ramWord hsecond hq (by simp)), hpword, hqword]
  exact congrArg some (joinHalves_halves _ v)

/-- R280, R287: of two 32-bit values stored one below the other, both are found. -/
theorem State.peek32_setLong_setLong {p' q' : Nat × Nat} (v w : Word32) (hc : s.cfg.pagesOk) (hm : s.mem.wf s.cfg)
    (ha : s.ramLong a) (hb : s.ramLong (a + 32#32)) (hp : s.storePlace (a + 32#32) = some p)
    (hp' : s.storePlace (alignDown (a + 32#32) + 16#32) = some p') (hq : s.storePlace a = some q)
    (hq' : s.storePlace (alignDown a + 16#32) = some q') :
    (s.setMem ((s.mem.setLong s.cfg.word32Order p p' v).setLong s.cfg.word32Order q q' w)).peek32 a = some w
    ∧ (s.setMem ((s.mem.setLong s.cfg.word32Order p p' v).setLong s.cfg.word32Order q q' w)).peek32 (a + 32#32)
      = some v := by
  have hfirst := State.peek32_setLong_same v hc hm hb hp hp'
  generalize hu : s.setMem (s.mem.setLong s.cfg.word32Order p p' v) = u at hfirst
  have hplace : ∀ a, u.storePlace a = s.storePlace a := State.storePlace_congr (by simp [← hu]) (by rw [← hu]; rfl)
  have hum : u.mem.wf s.cfg := hu ▸ Memory.setWord_wf _ _ _ _ _ (s.mem.setWord_wf _ _ _ _ hm)
  have huc : u.cfg = s.cfg := by rw [← hu]; rfl
  have hua : u.ramLong a := by
    subst hu
    simpa [State.ramLong, State.ramWord] using ha
  rw [← hplace] at hq hq'
  rw [← huc] at hum hc
  have hsame := State.peek32_setLong_same w hc hum hua hq hq'
  have hbelow := State.peek32_setLong_below w hc hum hq hq'
  subst hu
  exact ⟨hsame, hbelow.trans hfirst⟩

end Sys2Proof.Machine
end

section
/-! The return sequence by the pages of the stack, and the round trip of an entry and a return (spec/60_exceptions.md
R286 to R288). -/

namespace Sys2Proof.Machine

variable {s : State}

/-- R286: a return whose stack words are found in memory. -/
theorem State.returnFromInterrupt_of_peek {st : Word32} {pc : Addr} (hst : s.peek32 s.sp = some st)
    (hpc : s.peek32 (s.sp + 32#32) = some pc) :
    s.returnFromInterrupt = { s.setSp (s.sp + 64#32) with st := st, pc := pc } := by
  have hpop : s.popSt = { s.setSp (s.sp + 32#32) with st := st } := by
    rw [State.popSt, s.memRead32_of_peek _ _ hst]
  have hkept : s.popSt.peek32 (s.sp + 32#32) = some pc := by
    rw [hpop]
    exact hpc
  rw [State.returnFromInterrupt_eq, State.memRead32_of_peek _ _ _ hkept, hpop]
  exact congrArg (fun w : State => { w with st := st, pc := pc }) (s.setSp_setSp (s.sp + 32#32) (s.sp + 64#32))

/-- R288: a return whose stack words are on pages that no read is mapped on. -/
theorem State.returnFromInterrupt_openRead (hst : s.openRead s.sp) (hst' : s.openRead (alignDown s.sp + 16#32))
    (hpc : s.openRead (s.sp + 32#32)) (hpc' : s.openRead (alignDown (s.sp + 32#32) + 16#32)) :
    s.returnFromInterrupt = { s.setSp (s.sp + 64#32) with
      st := 0xFFFFFFFF#32, pc := 0xFFFFFFFF#32, events := s.returnFromInterrupt.events } := by
  have hpop : ∃ calls, s.popSt = { s.setSp (s.sp + 32#32) with st := 0xFFFFFFFF#32, events := calls } := by
    rw [State.popSt, State.memRead32_openRead hst hst']
    exact ⟨_, rfl⟩
  obtain ⟨calls, hpop⟩ := hpop
  have hread := State.memRead32_openRead (s := s.popSt) (a := s.sp + 32#32) (by rw [hpop]; exact hpc)
    (by rw [hpop]; exact hpc')
  rw [State.returnFromInterrupt_eq, hread, hpop]
  simp [State.setSp, State.setX, State.setPc, State.emit]

/-- Settles O40: the return by the pages of the stack, then the charge. -/
theorem returnByPage : Obligations.ReturnByPage := by
  intro s n
  refine ⟨fun st pc hst hpc => ?_, fun hst hst' hpc hpc' => ?_⟩
  · rw [exec_reti, State.returnFromInterrupt_of_peek hst hpc]
    rfl
  · exact ⟨_, exec_reti n s,
      congrArg (fun w : State => w.charge 8) (State.returnFromInterrupt_openRead hst hst' hpc hpc')⟩

/-- Whether a read finds a word in memory does not depend on the bytes. -/
theorem State.peek32_setMem_isSome {vec : Addr} {m : Memory} (hr : m.rmap = s.mem.rmap) (h : s.peek16 vec ≠ none)
    (h' : s.peek16 (alignDown vec + 16#32) ≠ none) : ∃ target, (s.setMem m).peek32 vec = some target := by
  have hfound : ∀ a, s.peek16 a ≠ none → ∃ w, (s.setMem m).peek16 a = some w := fun a ha => by
    obtain ⟨v, hv⟩ := Option.ne_none_iff_exists'.1 ha
    obtain ⟨buf, off, hentry, -⟩ := State.peek16_eq_some hv
    have hkept : m.readEntry s.cfg (alignDown a) = .memory buf off := by
      rw [← hentry, Memory.readEntry, Memory.readEntry, hr]
    exact ⟨_, by simp only [State.peek16, State.setMem_mem, State.setMem_cfg, hkept]; rfl⟩
  obtain ⟨v, hv⟩ := hfound _ h
  obtain ⟨w, hw⟩ := hfound _ h'
  exact ⟨_, State.peek32_of_halves hv hw⟩

/-- R280, R287: what an entry with its stack in memory leaves there: `st` at SP and `pc` above it. -/
theorem State.take_ramLong {t : State} {source : IntSource} {vec : Addr} (hc : s.cfg.pagesOk) (hm : s.mem.wf s.cfg)
    (hpc : s.ramLong (s.sp - 32#32)) (hst : s.ramLong (s.sp - 64#32)) (hvec : s.peek16 vec ≠ none)
    (hvec' : s.peek16 (alignDown vec + 16#32) ≠ none) (ht : s.take source vec = .next t) :
    t.sp = s.sp - 64#32 ∧ t.peek32 t.sp = some s.st ∧ t.peek32 (t.sp + 32#32) = some s.pc := by
  obtain ⟨p, hp⟩ := State.storePlace_of_ramWord hpc.1
  obtain ⟨p', hp'⟩ := State.storePlace_of_ramWord hpc.2
  obtain ⟨q, hq⟩ := State.storePlace_of_ramWord hst.1
  obtain ⟨q', hq'⟩ := State.storePlace_of_ramWord hst.2
  obtain ⟨target, htarget⟩ := State.peek32_setMem_isSome
    (m := (s.mem.setLong s.cfg.word32Order p p' s.pc).setLong s.cfg.word32Order q q' s.st) (by simp) hvec hvec'
  have hentry := entryOnMemory s source vec p p' q q' _ target hp hp' hq hq' rfl htarget
  have hnext := Host.Outcome.next.inj (ht.symm.trans hentry)
  have hsp : t.sp = s.sp - 64#32 := by
    rw [hnext]
    exact s.sp_setSp _
  have hfound : ∀ a, t.peek32 a = (s.setMem ((s.mem.setLong s.cfg.word32Order p p' s.pc).setLong
      s.cfg.word32Order q q' s.st)).peek32 a := State.peek32_congr (by rw [hnext]; rfl) (by rw [hnext]; rfl)
  have habove : s.sp - 64#32 + 32#32 = s.sp - 32#32 := by bv_omega
  rw [hsp, hfound, hfound]
  rw [← habove] at hpc hp hp'
  exact ⟨rfl, State.peek32_setLong_setLong s.pc s.st hc hm hst hpc hp hp' hq hq'⟩

/-- Settles O34: the return pops what the entry pushed. -/
theorem entryReturnRoundTrip : Obligations.EntryReturnRoundTrip := by
  intro s t u source vec hwf hm hpc hst hvec hvec' ht husp hust hupc
  obtain ⟨hsp, htst, htpc⟩ := State.take_ramLong (wf_pagesOk hwf) hm hpc hst hvec hvec' ht
  have hreturn := State.returnFromInterrupt_of_peek (s := u) (by rw [husp, hust, htst]) (by rw [husp, hupc, htpc])
  rw [hreturn]
  refine ⟨rfl, rfl, (u.sp_setSp _).trans ?_⟩
  rw [husp, hsp]
  exact BitVec.sub_add_cancel _ _

end Sys2Proof.Machine
end

section
/-! What a reset outside a run leaves, by the pages of the reset vector (spec/70_reset_and_hazards.md R360, R361, R363). -/

namespace Sys2Proof.Machine

variable {s : State}

/-- R284, R360: the vector's value is found in memory. -/
theorem State.loadVector_of_peek {vec target : Addr} (h : s.peek32 vec = some target) :
    s.loadVector vec = s.setPc target := by
  rw [State.loadVector, s.memRead32_of_peek vec target h]

/-- R101, R360: on unmapped pages the vector is all ones, and the calls of its two halves are recorded. -/
theorem State.loadVector_openRead {vec : Addr} (h : s.openRead vec) (k : s.openRead (alignDown vec + 16#32)) :
    s.loadVector vec = { s with
      pc := 0xFFFFFFFF#32
      events := s.events ++ [.handlerRead 0 (alignDown vec) .w16 0xFFFF#16,
        .handlerRead 0 (alignDown vec + 16#32) .w16 0xFFFF#16] } := by
  rw [State.loadVector, State.memRead32_openRead h k]
  simp [State.emit, State.setPc]

/-- R360, R363: what a reset leaves before it reads its vector, every register but `pc` at its reset value. -/
def State.cleared (s : State) : State :=
  { s.zeroed with
    st := s.cfg.stInit
    pixelshift := Config.pixelshiftDraw s.draws
    ropSel := Config.ropSelect 0#16
    draws := s.draws + 1 }

theorem State.zeroed_ioAt (s : State) (i : Fin 64) : s.zeroed.ioAt i = 0#16 := by
  simp [State.ioAt, State.zeroed]

/-- R46, R363: the PSIZE of 0 that a reset stores is illegal, so `pixelshift` is drawn. -/
theorem State.recomputePixelshift_zeroed (s : State) :
    s.zeroed.recomputePixelshift = (s.zeroed.setPixelshift (Config.pixelshiftDraw s.draws)).tick :=
  State.recomputePixelshift_of_illegal (by rw [State.zeroed_ioAt]; rfl)

/-- R360: a reset clears the registers and then reads its vector. -/
theorem State.resetNow_eq (s : State) : s.resetNow = s.cleared.loadVector s.cfg.vecReset := by
  have hzero : ∀ i, ((s.zeroed.setPixelshift (Config.pixelshiftDraw s.draws)).tick).ioAt i = 0#16 := s.zeroed_ioAt
  rw [State.resetNow, State.recomputePixelshift_zeroed, State.recomputeRopSel, hzero]
  rfl

/-- R360: inside a run a reset is refused. -/
theorem State.resetOp_of_inRun (hrun : s.inRun = true) : s.resetOp = .refused (.reentrantReset s) := by
  simp [State.resetOp, hrun]

/-- R360: outside a run a reset answers the state it leaves. -/
theorem State.resetOp_of_idle (hidle : s.inRun = false) : s.resetOp = .next (s.cleared.loadVector s.cfg.vecReset) := by
  simp [State.resetOp, hidle, State.resetNow_eq]

/-- A reset clears neither the map nor the handler table, so it finds its vector where the state before it did. -/
theorem State.cleared_peek32 (s : State) (a : Addr) : s.cleared.peek32 a = s.peek32 a :=
  State.peek32_congr (s := s) (t := s.cleared) rfl rfl a

/-- Settles O54: the registers are cleared, and the vector read is a read of the map as it was. -/
theorem resetResult : Obligations.ResetResult := by
  intro s
  refine ⟨State.resetOp_of_inRun, fun target hidle hvec => ?direct, fun hidle hfirst hsecond => ?unmapped⟩
  case direct =>
    refine ⟨Config.pixelshiftDraw s.draws, ?_⟩
    rw [State.resetOp_of_idle hidle, State.loadVector_of_peek ((s.cleared_peek32 _).trans hvec)]
    simp [State.cleared, State.zeroed, State.setPc]
  case unmapped =>
    refine ⟨Config.pixelshiftDraw s.draws, ?_⟩
    rw [State.resetOp_of_idle hidle, State.loadVector_openRead (s := s.cleared) hfirst hsecond]
    rfl

end Sys2Proof.Machine
end
